-- ==== Sys2Proof/Word.lean ====
section
/-! DEFINITION. The word types of the RDS decoder core: what the spec treats as bits (`00_scope.md` R7, R9). -/

namespace Sys2Proof

/-- An 8-bit unit: a character (R22), an AF byte (R97), a control byte (R81). -/
abbrev Byte := BitVec 8

/-- A block payload, `BLOCK_W` = 16 bits, bit 15 first on air (R7, R9). -/
abbrev Word := BitVec 16

/-- A statistics counter, `CNT_W` = 32 bits (R7, R30). -/
abbrev Counter := BitVec 32

/-- The update mask and `valid_fields`, `MASK_W` = 32 bits (R7, R31, R32). -/
abbrev Mask := BitVec 32

/-- A text of `n` opaque 8-bit characters, index 0 leftmost (R22). -/
abbrev Chars (n : Nat) := Vector Byte n

end Sys2Proof
end

