-- ==== Sys2Proof/Config.lean ====
section
/-! DEFINITION. The parameters of the hardware (`00_scope.md` R7), one configuration, with the values the spec fixes, and the one
value the spec leaves to the owner of a table outside the core (R318), as a constant without a body. -/

namespace Sys2Proof.Config

/-- `MAX_AF` (R7, R25): the entries the alternative-frequency set can hold. -/
abbrev maxAf : Nat := 25

/-- `MAX_ODA` (R7, R26): the rows the open-data-application table can hold. -/
abbrev maxOda : Nat := 18

/-- `TMC_WINDOWS` (R7): the words of the TMC optional buffer. -/
abbrev tmcWindows : Nat := 4

/-- `TMC_WINDOW_BITS` (R7): the usable bits of one window. -/
abbrev tmcWindowBits : Nat := 28

/-- `MAX_TMC_FIELDS` (R7, R29): the optional-field records a message can hold. -/
abbrev maxTmcFields : Nat := 28

/-- `PS_LEN` (R7, R22). -/
abbrev psLen : Nat := 8

/-- `PTYN_LEN` (R7, R24). -/
abbrev ptynLen : Nat := 8

/-- `RT_LEN` (R7, R23). -/
abbrev rtLen : Nat := 64

/-- `TMC_AID_0` (R7, R222). -/
abbrev tmcAid0 : Word := 0xCD46#16

/-- `TMC_AID_1` (R7, R222). -/
abbrev tmcAid1 : Word := 0xCD47#16

/-- `TMC_SG_BIT` (R7, R262): the bit of block B that is the SingleGroup flag. -/
abbrev tmcSgBit : Nat := 4

/-- `TMC_TI_BIT` (R7, R262): the bit of block B that is the TuningInfo flag. -/
abbrev tmcTiBit : Nat := 3

/-- `DI_BIT_OF_SEGMENT(s)` (R7, R165): the bit of `di` that segment `s` carries. -/
abbrev diBitOfSegment (s : Nat) : Nat := s

/-- The bit of the control byte that `FLAG_ERROR` = 0x80 masks (R7, R81). -/
abbrev flagErrorBit : Nat := 7

/-- The bit of the control byte that `FLAG_CORRECTED` = 0x40 masks (R7, R81). -/
abbrev flagCorrectedBit : Nat := 6

/-- DESIGN CHOICE, log 9 (safe). Free value: whether the external country table has a row for an ECC outside 0xE0 to 0xE4.
R318 says a country index is in range when `0xE0 <= ecc <= 0xE4` "at least"; the tables are outside the core. -/
opaque countryRowBeyond : Byte → Bool

end Sys2Proof.Config
end

