-- ==== Sys2Proof/Syntax.lean ====
section
/-! DEFINITION. The input formats (`30_encoding.md` R80 to R83) and the instructions: one constructor of `Instr` for each row of
`spec/opcode_table.json`, in the table's three formats GROUP, RAWBLOCK and HOSTOP (R105).

Operand fields carry the table's field names. Fields whose names begin with `x` are the bits of the group or block that the
decoder does not read; they are operands because `rds_group` (R143) and the whole-group comparisons (R223, R261) keep every bit
(log 16). Fixed bits (the group id, and the version where the row fixes it) are not operands. -/

namespace Sys2Proof

/-- The version bit `B[11]`: 0 is A, 1 is B (R85). -/
inductive Version where
  | a
  | b
  deriving DecidableEq, Repr

/-- The bit that stands for a version (R85). -/
def Version.bit : Version → Bool
  | .a => false
  | .b => true

/-- The version a bit stands for (R85). -/
def Version.ofBit (x : Bool) : Version := if x then .b else .a

/-- A RawBlock (R80): the payload `data` and the control byte `block`. -/
structure RawBlock where
  data  : Word
  block : Byte
  deriving DecidableEq, Repr

/-- The four payloads of a group (R10, R83). -/
structure GroupBlocks where
  a : Word
  b : Word
  c : Word
  d : Word
  deriving DecidableEq, Repr

/-- The public registers an observer can read (R21 to R35, R315). -/
inductive PublicReg where
  | pi | pty | tp | ta | ms | di | ecc | lc | rtAbFlag | ptynAbFlag
  | ps | rt | rtLength | ptyn | rdsAf | rdsOda | time | tmcSys | tmcMsg
  | stats | validFields | decodeInformation | rdsGroup | isRbds
  deriving DecidableEq, Repr

/-- One operation at the host interface (R310): the strobe that is raised and the operands sampled with it. Two strobes in one
step are outside the contract (R366, U1) and cannot be written. -/
inductive HostOp where
  | createStb (isRbdsIn : Bool)
  | destroy
  | resetStb (preserveStats : Bool)
  | blkStb (blkData : Word) (blkCtrl : Byte)
  | getGroup
  | read (reg : PublicReg)
  | lookupIndex
  deriving DecidableEq, Repr

/-- The instructions: one constructor per row of the opcode table. -/
inductive Instr where
  /- Group 0, basic tuning (R86, R87). -/
  | g0a (pi : Word) (tp : Bool) (pty : BitVec 5) (ta ms dibit : Bool) (seg : BitVec 2) (af1 af2 c0 c1 : Byte)
  | g0b (pi : Word) (tp : Bool) (pty : BitVec 5) (ta ms dibit : Bool) (seg : BitVec 2) (xC : Word) (c0 c1 : Byte)
  /- Group 1, slow labelling (R88). -/
  | g1aEcc (pi : Word) (tp : Bool) (pty xB : BitVec 5) (xC15 : Bool) (xC : BitVec 4) (ecc : Byte) (xD : Word)
  | g1aLc (pi : Word) (tp : Bool) (pty xB : BitVec 5) (xC15 : Bool) (xC : BitVec 4) (lc : Byte) (xD : Word)
  | g1aV1 (pi : Word) (tp : Bool) (pty xB : BitVec 5) (xC15 : Bool) (xC : BitVec 12) (xD : Word)
  | g1aV2 (pi : Word) (tp : Bool) (pty xB : BitVec 5) (xC15 : Bool) (xC : BitVec 12) (xD : Word)
  | g1aV4_7 (pi : Word) (tp : Bool) (pty xB : BitVec 5) (xC15 : Bool) (variant : BitVec 3) (xC : BitVec 12) (xD : Word)
  | g1b (pi : Word) (tp : Bool) (pty xB : BitVec 5) (xC xD : Word)
  /- Group 2, radio text (R89). -/
  | g2a (pi : Word) (tp : Bool) (pty : BitVec 5) (ab : Bool) (seg : BitVec 4) (c0 c1 c2 c3 : Byte)
  | g2b (pi : Word) (tp : Bool) (pty : BitVec 5) (ab : Bool) (seg : BitVec 4) (xC : Word) (c0 c1 : Byte)
  /- Group 3, open data applications and TMC system parameters (R90). -/
  | g3aTmcSys0 (pi : Word) (tp : Bool) (pty : BitVec 5) (gid : BitVec 4) (ver : Version)
      (xC : BitVec 2) (ltn : BitVec 6) (afi enhancedMode : Bool) (mgs : BitVec 4) (aid : Word)
  | g3aTmcSys1 (pi : Word) (tp : Bool) (pty : BitVec 5) (gid : BitVec 4) (ver : Version)
      (gap : BitVec 2) (sid : BitVec 6) (tA tW tD : BitVec 2) (aid : Word)
  | g3aTmcSysX (pi : Word) (tp : Bool) (pty : BitVec 5) (gid : BitVec 4) (ver : Version)
      (variant : BitVec 2) (xC : BitVec 14) (aid : Word)
  | g3a (pi : Word) (tp : Bool) (pty : BitVec 5) (gid : BitVec 4) (ver : Version) (xC : Word) (aid : Word)
  | g3b (pi : Word) (tp : Bool) (pty xB : BitVec 5) (xC xD : Word)
  /- Group 4, clock-time and date; `mjd` and `hour` are assembled as R93 says (R91, R93). -/
  | g4a (pi : Word) (tp : Bool) (pty : BitVec 5) (xB : BitVec 3) (mjd : BitVec 17) (hour : BitVec 5) (minute : BitVec 6)
      (sign : Bool) (mag : BitVec 5)
  | g4b (pi : Word) (tp : Bool) (pty xB : BitVec 5) (xC xD : Word)
  /- Groups without a decoder (R100). -/
  | g5 (pi : Word) (version : Version) (tp : Bool) (pty xB : BitVec 5) (xC xD : Word)
  | g6 (pi : Word) (version : Version) (tp : Bool) (pty xB : BitVec 5) (xC xD : Word)
  | g7 (pi : Word) (version : Version) (tp : Bool) (pty xB : BitVec 5) (xC xD : Word)
  /- Group 8, TMC user messages (R94). -/
  | g8aTi (pi : Word) (tp : Bool) (pty : BitVec 5) (sg : Bool) (x3 : BitVec 3) (xC xD : Word)
  | g8aSg (pi : Word) (tp : Bool) (pty : BitVec 5) (dp : BitVec 3) (div dir : Bool) (extent : BitVec 3) (event : BitVec 11)
      (loc : Word)
  | g8aMg1 (pi : Word) (tp : Bool) (pty : BitVec 5) (ci : BitVec 3) (dir : Bool) (extent : BitVec 3) (event : BitVec 11)
      (loc : Word)
  | g8aMg2 (pi : Word) (tp : Bool) (pty : BitVec 5) (ci : BitVec 3) (gsi : BitVec 2) (window : BitVec 28)
  | g8aMgn (pi : Word) (tp : Bool) (pty : BitVec 5) (ci : BitVec 3) (gsi : BitVec 2) (window : BitVec 28)
  | g8b (pi : Word) (tp : Bool) (pty xB : BitVec 5) (xC xD : Word)
  | g9 (pi : Word) (version : Version) (tp : Bool) (pty xB : BitVec 5) (xC xD : Word)
  /- Group 10, programme type name (R92). -/
  | g10a (pi : Word) (tp : Bool) (pty : BitVec 5) (ab : Bool) (xB : BitVec 3) (seg : Bool) (c0 c1 c2 c3 : Byte)
  | g10b (pi : Word) (tp : Bool) (pty xB : BitVec 5) (xC xD : Word)
  /- Groups without a decoder (R100). -/
  | g11 (pi : Word) (version : Version) (tp : Bool) (pty xB : BitVec 5) (xC xD : Word)
  | g12 (pi : Word) (version : Version) (tp : Bool) (pty xB : BitVec 5) (xC xD : Word)
  | g13 (pi : Word) (version : Version) (tp : Bool) (pty xB : BitVec 5) (xC xD : Word)
  | g14 (pi : Word) (version : Version) (tp : Bool) (pty xB : BitVec 5) (xC xD : Word)
  | g15 (pi : Word) (version : Version) (tp : Bool) (pty xB : BitVec 5) (xC xD : Word)
  /- Raw blocks, by the control byte (R81, R82); `unused` is bits 5:3. -/
  | blkErr (corrected : Bool) (unused : BitVec 3) (label : BitVec 3) (data : Word)
  | blkA (corrected : Bool) (unused : BitVec 3) (data : Word)
  | blkB (corrected : Bool) (unused : BitVec 3) (data : Word)
  | blkC (corrected : Bool) (unused : BitVec 3) (data : Word)
  | blkD (corrected : Bool) (unused : BitVec 3) (data : Word)
  | blkCp (corrected : Bool) (unused : BitVec 3) (data : Word)
  | blkX5 (corrected : Bool) (unused : BitVec 3) (data : Word)
  | blkX6 (corrected : Bool) (unused : BitVec 3) (data : Word)
  | blkX7 (corrected : Bool) (unused : BitVec 3) (data : Word)
  /- Host operations (R310 to R318). -/
  | create (isRbds : Bool)
  | destroy
  | reset (preserveStats : Bool)
  | add (data : Word) (block : Byte)
  | getGroup
  | read (reg : PublicReg)
  | lookupIndex
  deriving DecidableEq, Repr

end Sys2Proof
end

