-- ==== Sys2Proof/Machine/State.lean ====
section
/-! DEFINITION. The state of the decoder (`10_state.md` R20 to R44), its reset values (R45, R361), and the reasons a step can stop.

Register names are the spec's in camel case. The last four fields of `State` are the model's own (log 1, 3, 5): the input still to
come, the two output ports, and whether there is an instance. -/

namespace Sys2Proof.Machine

/-- The state of the block assembler (R36): which block it expects next. -/
inductive DecodeState where
  /-- expects A -/
  | empty
  /-- expects B -/
  | aReceived
  /-- expects C or C' -/
  | bReceived
  /-- expects D -/
  | cReceived
  deriving DecidableEq, Repr

/-- The Group record (R34, R143). The port table of R310 gives the output `grp_*`, which carries it, 49 bits; the fields of R34 sum to
58, and an observer is given all of them (DESIGN CHOICE, log 18). -/
structure Group where
  pi       : Word
  groupId  : BitVec 4
  version  : Version
  dataBLsb : BitVec 5
  dataCMsb : Byte
  dataCLsb : Byte
  dataDMsb : Byte
  dataDLsb : Byte
  deriving DecidableEq, Repr

/-- The alternative-frequency set `rds_af` (R25); only `af[0..size-1]` are meaningful. -/
structure AfSet where
  announcedAf : BitVec 5
  size        : BitVec 5
  af          : Vector (BitVec 32) Config.maxAf
  deriving DecidableEq, Repr

/-- A row of the open-data-application table (R26). -/
structure OdaRow where
  groupId : BitVec 4
  version : Version
  aid     : Word
  deriving DecidableEq, Repr

/-- The open-data-application table `rds_oda` (R26); only `oda[0..size-1]` are meaningful. The spec gives `size` a range and no
width (log 12). -/
structure OdaTable where
  size : Nat
  oda  : Vector OdaRow Config.maxOda
  deriving DecidableEq, Repr

/-- The civil timestamp `time` (R27): mathematical integers (R246, log 12). -/
structure CivilTime where
  year   : Int
  month  : Int
  day    : Int
  hour   : Int
  minute : Int
  second : Int
  gmtoff : Int
  deriving DecidableEq, Repr

/-- The TMC system parameters (R28). -/
structure TmcSys where
  ltn          : BitVec 6
  afi          : Bool
  enhancedMode : Bool
  mgs          : BitVec 4
  gap          : BitVec 2
  sid          : BitVec 6
  tA           : BitVec 2
  tW           : BitVec 2
  tD           : BitVec 2
  deriving DecidableEq, Repr

/-- One optional-field record of a TMC message (R29, R271). -/
structure TmcField where
  label : BitVec 4
  data  : Word
  deriving DecidableEq, Repr

/-- The optional fields of a TMC message (R29); elements at and beyond `size` are zero (R272). The spec gives `size` a range and no
width (log 12). -/
structure Additional where
  size   : Nat
  fields : Vector TmcField Config.maxTmcFields
  deriving DecidableEq, Repr

/-- The fields of a TMC user message but its optional fields: the pending record `new_tmc_msg` (R44). -/
structure TmcPending where
  dp              : BitVec 3
  followDiversion : Bool
  negDirection    : Bool
  extent          : BitVec 3
  event           : BitVec 11
  location        : Word
  length          : BitVec 3
  deriving DecidableEq, Repr

/-- A TMC user message `tmc.tmc_msg` (R29). -/
structure TmcMsg extends TmcPending where
  additional : Additional
  deriving DecidableEq, Repr

/-- The statistics `rds_statistics` (R30). -/
structure Statistics where
  blockCnt          : Counter
  groupCnt          : Counter
  blockErrorCnt     : Counter
  blockCorrectedCnt : Counter
  groupErrorCnt     : Counter
  groupTypeCnt      : Vector Counter 16
  deriving DecidableEq, Repr

/-- The lookup indices and in-range flags of R318. -/
structure LookupIndices where
  ptyIsRbds      : Bool
  pty            : BitVec 5
  ptyInRange     : Bool
  coverage       : BitVec 4
  coverInRange   : Bool
  countryEcc     : Byte
  countryPi      : BitVec 4
  countryInRange : Bool
  language       : Byte
  langInRange    : Bool
  deriving DecidableEq, Repr

/-- What an observing operation returns (R315, R316, R318). -/
inductive ReadValue where
  | bits (width : Nat) (value : BitVec width)
  | flag (value : Bool)
  | chars (text : List Byte)
  | afSet (announced : BitVec 5) (entries : List (BitVec 32))
  | odaTable (rows : List OdaRow)
  | time (value : CivilTime)
  | tmcSys (value : TmcSys)
  | tmcMsg (value : TmcMsg)
  | statistics (value : Statistics)
  | group (value : Group)
  | indices (value : LookupIndices)
  deriving DecidableEq, Repr

/-- The state. -/
structure State where
  /- Public state (R21 to R35). -/
  pi                : Word
  pty               : BitVec 5
  tp                : Bool
  ta                : Bool
  ms                : Bool
  di                : BitVec 4
  ecc               : Byte
  lc                : Byte
  rtAbFlag          : Bool
  ptynAbFlag        : Bool
  ps                : Chars Config.psLen
  rt                : Chars Config.rtLen
  rtLength          : BitVec 7
  ptyn              : Chars Config.ptynLen
  rdsAf             : AfSet
  rdsOda            : OdaTable
  time              : CivilTime
  tmcSys            : TmcSys
  tmcMsg            : TmcMsg
  stats             : Statistics
  validFields       : Mask
  decodeInformation : Mask
  rdsGroup          : Group
  isRbds            : Bool
  /- Private (staging) state (R36 to R44). -/
  decodeState       : DecodeState
  rdsDataRaw        : Vector RawBlock 4
  newPi             : Word
  newPty            : BitVec 5
  newEcc            : Byte
  newLc             : Byte
  newMjd            : BitVec 17
  newPs             : Chars Config.psLen
  newPsValid        : Vector Bool Config.psLen
  newPtyn           : Vector (Chars 4) 2
  newPtynValid      : Vector Bool 2
  newDi             : BitVec 4
  nextDiSegment     : BitVec 2
  newRt             : Chars Config.rtLen
  nextRtSegment     : BitVec 5
  prevTmcGroup      : Group
  prevTmcSysGroup   : Group
  prevTmcArmed      : Bool
  newTmcMsg         : TmcPending
  optionalTmc       : Vector (BitVec 32) Config.tmcWindows
  continuityId      : BitVec 3
  grpSeqId          : BitVec 2
  /- The model's own fields: not registers of the spec (log 1, 3, 5). -/
  /-- The update mask of the last step, the port `upd_mask` (R31, R310). -/
  updMask           : Mask
  /-- What the last step returned to an observer (R315, R316, R318). -/
  readOut           : Option ReadValue
  /-- The host operations still to come, first next (R47). -/
  pending           : List HostOp
  /-- There is an instance: `create` has run and `destroy` has not (R15, R364). -/
  created           : Bool
  deriving DecidableEq, Repr

/-- Why the machine stops with a fault. There is no such reason: the hardware "raises nothing" (R11, R330, R333, R339), no access can
fault (R62), and every state accepts every block (R333). So no step ever answers a fault (log 13). -/
inductive Fault where
  deriving DecidableEq, Repr

/-- Why an instruction has no effect to give. -/
inductive Refusal where
  /-- The instruction has no meaning in this model yet. Raised by a rejected arm of `exec` only. Safe. -/
  | notModelled (mnemonic : String)
  /-- An operation, block or group other than `create` is given where there is no instance. Raised by every meaning but
  `execCreate`. The spec's treatment is `refuse` (U2; R312, R364). Safe (log 5). -/
  | destroyed
  deriving DecidableEq, Repr

/-- The all-zero Group record, version A (R45). -/
def Group.zero : Group := ⟨0, 0, .a, 0, 0, 0, 0, 0⟩

/-- The empty alternative-frequency set (R45). -/
def AfSet.zero : AfSet := ⟨0, 0, Vector.replicate _ 0⟩

/-- The empty open-data-application table (R45). -/
def OdaTable.zero : OdaTable := ⟨0, Vector.replicate _ ⟨0, .a, 0⟩⟩

/-- The all-zero timestamp, "which is not a calendar date" (R45). -/
def CivilTime.zero : CivilTime := ⟨0, 0, 0, 0, 0, 0, 0⟩

/-- The all-zero TMC system parameters (R45). -/
def TmcSys.zero : TmcSys := ⟨0, false, false, 0, 0, 0, 0, 0, 0⟩

/-- No optional fields (R45, R264). -/
def Additional.zero : Additional := ⟨0, Vector.replicate _ ⟨0, 0⟩⟩

/-- The all-zero pending TMC record (R45, R266). -/
def TmcPending.zero : TmcPending := ⟨0, false, false, 0, 0, 0, 0⟩

/-- The all-zero TMC message (R45, R264). -/
def TmcMsg.zero : TmcMsg := ⟨TmcPending.zero, Additional.zero⟩

/-- The zeroed statistics (R45). -/
def Statistics.zero : Statistics := ⟨0, 0, 0, 0, 0, Vector.replicate _ 0⟩

/-- Every register and array element at zero (R45, R361) but for the three things a reset may keep: the configuration bit, the
statistics, and the input still to come, which is no register (R47). -/
def State.cleared (isRbds : Bool) (stats : Statistics) (pending : List HostOp) : State where
  pi := 0
  pty := 0
  tp := false
  ta := false
  ms := false
  di := 0
  ecc := 0
  lc := 0
  rtAbFlag := false
  ptynAbFlag := false
  ps := Vector.replicate _ 0
  rt := Vector.replicate _ 0
  rtLength := 0
  ptyn := Vector.replicate _ 0
  rdsAf := AfSet.zero
  rdsOda := OdaTable.zero
  time := CivilTime.zero
  tmcSys := TmcSys.zero
  tmcMsg := TmcMsg.zero
  stats := stats
  validFields := 0
  decodeInformation := 0
  rdsGroup := Group.zero
  isRbds := isRbds
  decodeState := .empty
  rdsDataRaw := Vector.replicate _ ⟨0, 0⟩
  newPi := 0
  newPty := 0
  newEcc := 0
  newLc := 0
  newMjd := 0
  newPs := Vector.replicate _ 0
  newPsValid := Vector.replicate _ false
  newPtyn := Vector.replicate _ (Vector.replicate _ 0)
  newPtynValid := Vector.replicate _ false
  newDi := 0
  nextDiSegment := 0
  newRt := Vector.replicate _ 0
  nextRtSegment := 0
  prevTmcGroup := Group.zero
  prevTmcSysGroup := Group.zero
  prevTmcArmed := false
  newTmcMsg := TmcPending.zero
  optionalTmc := Vector.replicate _ 0
  continuityId := 0
  grpSeqId := 0
  updMask := 0
  readOut := none
  pending := pending
  created := true

/-- The machine right after reset: the state after `create(0)` with no input yet (R45, R311; DESIGN CHOICE of the bit, log 2). -/
def State.reset : State := State.cleared false Statistics.zero []

/-- What a step answers on this hardware. -/
abbrev Answer := Host.Outcome State Fault Refusal

end Sys2Proof.Machine
end

