-- ==== Sys2Proof/Machine/Flags.lean ====
section
/-! DEFINITION. The flag words of the hardware: the bits of the update mask and of `valid_fields` (R31, R32), of
`decode_information` (R33), and the accept test of the validation buffers (R141). -/

namespace Sys2Proof.Machine

/-- The names of the bits of the update mask and of `valid_fields` (R31). -/
inductive Field where
  | pi | pty | ps | rt | tp | ta | ms | di | af | ecc | lc | time | tmcSg | tmcMg | tmcSys | ptyn | oda
  deriving DecidableEq, Repr

/-- The position of a bit (the table of R31). -/
def Field.pos : Field → Nat
  | .pi => 0 | .pty => 1 | .ps => 2 | .rt => 3 | .tp => 4 | .ta => 5 | .ms => 6 | .di => 7 | .af => 8 | .ecc => 9 | .lc => 10
  | .time => 11 | .tmcSg => 12 | .tmcMg => 13 | .tmcSys => 14 | .ptyn => 15 | .oda => 16

/-- The mask with that one bit set. -/
def Field.mask (f : Field) : Mask := 1#32 <<< f.pos

/-- `INFO_ODA`, bit 0 of `decode_information` (R33). -/
def infoOda : Mask := 1#32

/-- `mask |= F` (R11, R31): the bit in the update mask being built for the current `add`. -/
def State.raise (f : Field) (s : State) : State := { s with updMask := s.updMask ||| f.mask }

/-- `valid |= F` (R11, R32). -/
def State.validate (f : Field) (s : State) : State := { s with validFields := s.validFields ||| f.mask }

/-- `valid &= ~F` (R11, R32). -/
def State.invalidate (f : Field) (s : State) : State := { s with validFields := s.validFields &&& ~~~f.mask }

/-- `if changed: mask |= F` (R151): every rule raises a bit only under a comparison. -/
def State.raiseIf (f : Field) (changed : Bool) (s : State) : State := if changed then s.raise f else s

/-- The accept test of the validation buffer (R141): the candidate equals the staged value and differs from the public one. -/
def accepts {w : Nat} (pub stg x : BitVec w) : Bool := x == stg && x != pub

end Sys2Proof.Machine
end

