-- ==== Sys2Proof/Decode.lean ====
section
/-! DEFINITION. The decoder, written from the encoding rules of `30_encoding.md` (R80 to R102), and after it the encoder written
from the same rules. Decoding has the levels of the table (R105): a host operation is a strobe and decodes without a word; the
argument of `add` decodes by its control byte; a completed group decodes by its four payloads. -/

namespace Sys2Proof

/-! ### Field helpers: the composition of blocks B, C and D from operand fields (R84 to R97) -/

/-- Block B of every group (R85): id, version, TP, PTY and the five group-type specific bits. -/
def blockB (gid : BitVec 4) (ver : Version) (tp : Bool) (pty low : BitVec 5) : Word :=
  gid ++ BitVec.ofBool ver.bit ++ BitVec.ofBool tp ++ pty ++ low

/-- `B[4:0]` of groups 0A and 0B (R86). -/
def lowG0 (ta ms dibit : Bool) (seg : BitVec 2) : BitVec 5 := BitVec.ofBool ta ++ BitVec.ofBool ms ++ BitVec.ofBool dibit ++ seg

/-- `B[4:0]` of groups 2A and 2B (R86). -/
def lowG2 (ab : Bool) (seg : BitVec 4) : BitVec 5 := BitVec.ofBool ab ++ seg

/-- `B[4:0]` of group 3A: the announced group id and version (R86, R90). -/
def lowG3 (gid : BitVec 4) (ver : Version) : BitVec 5 := gid ++ BitVec.ofBool ver.bit

/-- `B[4:0]` of group 4A: three unread bits and `mjd[16:15]` (R86, R93). -/
def lowG4 (xB : BitVec 3) (mjd : BitVec 17) : BitVec 5 := xB ++ mjd.extractLsb' 15 2

/-- `B[4:0]` of group 8A: SG, TI and `dp` or `ci` (R86, R94); the table's layout, which has the default TMC flag positions. -/
def lowG8 (sg ti : Bool) (x3 : BitVec 3) : BitVec 5 := BitVec.ofBool sg ++ BitVec.ofBool ti ++ x3

/-- `B[4:0]` of group 10A (R86, R92). -/
def lowG10 (ab : Bool) (xB : BitVec 3) (seg : Bool) : BitVec 5 := BitVec.ofBool ab ++ xB ++ BitVec.ofBool seg

/-- Two bytes as a payload, most significant first (R63, R64). -/
def bytePair (msb lsb : Byte) : Word := msb ++ lsb

/-- Block C of group 1A (R88): one unread bit, the variant, and the twelve bits below it. -/
def blockC1 (xC15 : Bool) (variant : BitVec 3) (rest : BitVec 12) : Word := BitVec.ofBool xC15 ++ variant ++ rest

/-- Block C of group 3A, TMC system word variant 0 (R90). -/
def blockC3v0 (xC : BitVec 2) (ltn : BitVec 6) (afi enhancedMode : Bool) (mgs : BitVec 4) : Word :=
  0#2 ++ xC ++ ltn ++ BitVec.ofBool afi ++ BitVec.ofBool enhancedMode ++ mgs

/-- Block C of group 3A, TMC system word variant 1 (R90). -/
def blockC3v1 (gap : BitVec 2) (sid : BitVec 6) (tA tW tD : BitVec 2) : Word := 1#2 ++ gap ++ sid ++ tA ++ tW ++ tD

/-- Block C of group 4A: `mjd[14:0]` and `hour[4]` (R93). -/
def blockC4 (mjd : BitVec 17) (hour : BitVec 5) : Word := mjd.extractLsb' 0 15 ++ hour.extractLsb' 4 1

/-- Block D of group 4A: `hour[3:0]`, the minute, the sign and the magnitude of the offset (R93). -/
def blockD4 (hour : BitVec 5) (minute : BitVec 6) (sign : Bool) (mag : BitVec 5) : Word :=
  hour.extractLsb' 0 4 ++ minute ++ BitVec.ofBool sign ++ mag

/-- Block C of a TMC single group or first group: the primary fields (R94, R263). -/
def blockC8 (div dir : Bool) (extent : BitVec 3) (event : BitVec 11) : Word :=
  BitVec.ofBool div ++ BitVec.ofBool dir ++ extent ++ event

/-- Block C of a TMC second (`sgi` set) or subsequent group: the sequence value and window bits 27 to 16 (R94, R96). -/
def blockC8w (sgi : Bool) (gsi : BitVec 2) (window : BitVec 28) : Word :=
  0#1 ++ BitVec.ofBool sgi ++ gsi ++ window.extractLsb' 16 12

/-- The control byte of a block (R81). -/
def ctrlByte (error corrected : Bool) (unused label : BitVec 3) : Byte :=
  BitVec.ofBool error ++ BitVec.ofBool corrected ++ unused ++ label

/-! ### Decoding a group -/

/-- Group 1A by its variant `C[14:12]` (R88, R190). -/
def decodeG1A (p : GroupBlocks) (tp : Bool) (pty : BitVec 5) : Instr :=
  let xB := p.b.extractLsb' 0 5
  let xC15 := p.c.getLsbD 15
  match (p.c.extractLsb' 12 3).toNat with
  | 0 => .g1aEcc p.a tp pty xB xC15 (p.c.extractLsb' 8 4) (p.c.extractLsb' 0 8) p.d
  | 1 => .g1aV1 p.a tp pty xB xC15 (p.c.extractLsb' 0 12) p.d
  | 2 => .g1aV2 p.a tp pty xB xC15 (p.c.extractLsb' 0 12) p.d
  | 3 => .g1aLc p.a tp pty xB xC15 (p.c.extractLsb' 8 4) (p.c.extractLsb' 0 8) p.d
  | _ => .g1aV4_7 p.a tp pty xB xC15 (p.c.extractLsb' 12 3) (p.c.extractLsb' 0 12) p.d

/-- Group 3A: a TMC system word when the AID is one of TMC's, by its variant `C[15:14]`; else the ODA row only (R90, R105). -/
def decodeG3A (p : GroupBlocks) (tp : Bool) (pty : BitVec 5) : Instr :=
  let gid := p.b.extractLsb' 1 4
  let ver := Version.ofBit (p.b.getLsbD 0)
  if p.d = Config.tmcAid0 ∨ p.d = Config.tmcAid1 then
    match (p.c.extractLsb' 14 2).toNat with
    | 0 => .g3aTmcSys0 p.a tp pty gid ver (p.c.extractLsb' 12 2) (p.c.extractLsb' 6 6) (p.c.getLsbD 5) (p.c.getLsbD 4)
        (p.c.extractLsb' 0 4) p.d
    | 1 => .g3aTmcSys1 p.a tp pty gid ver (p.c.extractLsb' 12 2) (p.c.extractLsb' 6 6) (p.c.extractLsb' 4 2)
        (p.c.extractLsb' 2 2) (p.c.extractLsb' 0 2) p.d
    | _ => .g3aTmcSysX p.a tp pty gid ver (p.c.extractLsb' 14 2) (p.c.extractLsb' 0 14) p.d
  else .g3a p.a tp pty gid ver p.c p.d

/-- Group 4A: the four clock-time fields, packed most significant first into `B[1:0] ++ C ++ D` (R91, R93). -/
def decodeG4A (p : GroupBlocks) (tp : Bool) (pty : BitVec 5) : Instr :=
  .g4a p.a tp pty (p.b.extractLsb' 2 3) (p.b.extractLsb' 0 2 ++ p.c.extractLsb' 1 15) (p.c.extractLsb' 0 1 ++ p.d.extractLsb' 12 4)
    (p.d.extractLsb' 6 6) (p.d.getLsbD 5) (p.d.extractLsb' 0 5)

/-- Group 8A: TI first, then SG, then FGI, then SGI (R94, R95, R262). -/
def decodeG8A (p : GroupBlocks) (tp : Bool) (pty : BitVec 5) : Instr :=
  let x3 := p.b.extractLsb' 0 3
  if p.b.getLsbD Config.tmcTiBit then .g8aTi p.a tp pty (p.b.getLsbD Config.tmcSgBit) x3 p.c p.d
  else if p.b.getLsbD Config.tmcSgBit then
    .g8aSg p.a tp pty x3 (p.c.getLsbD 15) (p.c.getLsbD 14) (p.c.extractLsb' 11 3) (p.c.extractLsb' 0 11) p.d
  else if p.c.getLsbD 15 then
    .g8aMg1 p.a tp pty x3 (p.c.getLsbD 14) (p.c.extractLsb' 11 3) (p.c.extractLsb' 0 11) p.d
  else if p.c.getLsbD 14 then .g8aMg2 p.a tp pty x3 (p.c.extractLsb' 12 2) (p.c.extractLsb' 0 12 ++ p.d)
  else .g8aMgn p.a tp pty x3 (p.c.extractLsb' 12 2) (p.c.extractLsb' 0 12 ++ p.d)

/-- The row of a completed group: the group id `B[15:12]` and the version `B[11]` (R99). Total: every group word has a row (R105). -/
def decodeGroup (p : GroupBlocks) : Instr :=
  let tp := p.b.getLsbD 10
  let pty := p.b.extractLsb' 5 5
  let low := p.b.extractLsb' 0 5
  let ver := Version.ofBit (p.b.getLsbD 11)
  match (p.b.extractLsb' 12 4).toNat, ver with
  | 0, .a => .g0a p.a tp pty (p.b.getLsbD 4) (p.b.getLsbD 3) (p.b.getLsbD 2) (p.b.extractLsb' 0 2)
      (p.c.extractLsb' 8 8) (p.c.extractLsb' 0 8) (p.d.extractLsb' 8 8) (p.d.extractLsb' 0 8)
  | 0, .b => .g0b p.a tp pty (p.b.getLsbD 4) (p.b.getLsbD 3) (p.b.getLsbD 2) (p.b.extractLsb' 0 2)
      p.c (p.d.extractLsb' 8 8) (p.d.extractLsb' 0 8)
  | 1, .a => decodeG1A p tp pty
  | 1, .b => .g1b p.a tp pty low p.c p.d
  | 2, .a => .g2a p.a tp pty (p.b.getLsbD 4) (p.b.extractLsb' 0 4)
      (p.c.extractLsb' 8 8) (p.c.extractLsb' 0 8) (p.d.extractLsb' 8 8) (p.d.extractLsb' 0 8)
  | 2, .b => .g2b p.a tp pty (p.b.getLsbD 4) (p.b.extractLsb' 0 4) p.c (p.d.extractLsb' 8 8) (p.d.extractLsb' 0 8)
  | 3, .a => decodeG3A p tp pty
  | 3, .b => .g3b p.a tp pty low p.c p.d
  | 4, .a => decodeG4A p tp pty
  | 4, .b => .g4b p.a tp pty low p.c p.d
  | 5, v => .g5 p.a v tp pty low p.c p.d
  | 6, v => .g6 p.a v tp pty low p.c p.d
  | 7, v => .g7 p.a v tp pty low p.c p.d
  | 8, .a => decodeG8A p tp pty
  | 8, .b => .g8b p.a tp pty low p.c p.d
  | 9, v => .g9 p.a v tp pty low p.c p.d
  | 10, .a => .g10a p.a tp pty (p.b.getLsbD 4) (p.b.extractLsb' 1 3) (p.b.getLsbD 0)
      (p.c.extractLsb' 8 8) (p.c.extractLsb' 0 8) (p.d.extractLsb' 8 8) (p.d.extractLsb' 0 8)
  | 10, .b => .g10b p.a tp pty low p.c p.d
  | 11, v => .g11 p.a v tp pty low p.c p.d
  | 12, v => .g12 p.a v tp pty low p.c p.d
  | 13, v => .g13 p.a v tp pty low p.c p.d
  | 14, v => .g14 p.a v tp pty low p.c p.d
  | _, v => .g15 p.a v tp pty low p.c p.d

/-! ### Decoding a block and a host operation -/

/-- The row of a RawBlock, by its control byte (R81, R82, R122): the ERROR flag first, then the label. Exactly one row matches any
byte (R105). -/
def decodeBlock (r : RawBlock) : Instr :=
  let corrected := r.block.getLsbD Config.flagCorrectedBit
  let unused := r.block.extractLsb' 3 3
  let label := r.block.extractLsb' 0 3
  if r.block.getLsbD Config.flagErrorBit then .blkErr corrected unused label r.data
  else
    match label.toNat with
    | 0 => .blkA corrected unused r.data
    | 1 => .blkB corrected unused r.data
    | 2 => .blkC corrected unused r.data
    | 3 => .blkD corrected unused r.data
    | 4 => .blkCp corrected unused r.data
    | 5 => .blkX5 corrected unused r.data
    | 6 => .blkX6 corrected unused r.data
    | _ => .blkX7 corrected unused r.data

/-- The instruction a host operation is: the strobes of R310 are the HOSTOP rows. -/
def decodeOp : HostOp → Instr
  | .createStb b => .create b
  | .destroy => .destroy
  | .resetStb p => .reset p
  | .blkStb d c => .add d c
  | .getGroup => .getGroup
  | .read r => .read r
  | .lookupIndex => .lookupIndex

/-! ### The level of an instruction -/

/-- The instruction is a GROUP row. -/
def Instr.isGroup : Instr → Bool
  | .g0a .. | .g0b .. | .g1aEcc .. | .g1aLc .. | .g1aV1 .. | .g1aV2 .. | .g1aV4_7 .. | .g1b .. | .g2a .. | .g2b .. | .g3aTmcSys0 ..
  | .g3aTmcSys1 .. | .g3aTmcSysX .. | .g3a .. | .g3b .. | .g4a .. | .g4b .. | .g5 .. | .g6 .. | .g7 .. | .g8aTi .. | .g8aSg ..
  | .g8aMg1 .. | .g8aMg2 .. | .g8aMgn .. | .g8b .. | .g9 .. | .g10a .. | .g10b .. | .g11 .. | .g12 .. | .g13 .. | .g14 ..
  | .g15 .. => true
  | .blkErr .. | .blkA .. | .blkB .. | .blkC .. | .blkD .. | .blkCp .. | .blkX5 .. | .blkX6 .. | .blkX7 .. => false
  | .create .. | .destroy | .reset .. | .add .. | .getGroup | .read .. | .lookupIndex => false

/-- The instruction is a RAWBLOCK row. -/
def Instr.isBlock : Instr → Bool
  | .blkErr .. | .blkA .. | .blkB .. | .blkC .. | .blkD .. | .blkCp .. | .blkX5 .. | .blkX6 .. | .blkX7 .. => true
  | .g0a .. | .g0b .. | .g1aEcc .. | .g1aLc .. | .g1aV1 .. | .g1aV2 .. | .g1aV4_7 .. | .g1b .. | .g2a .. | .g2b .. | .g3aTmcSys0 ..
  | .g3aTmcSys1 .. | .g3aTmcSysX .. | .g3a .. | .g3b .. | .g4a .. | .g4b .. | .g5 .. | .g6 .. | .g7 .. | .g8aTi .. | .g8aSg ..
  | .g8aMg1 .. | .g8aMg2 .. | .g8aMgn .. | .g8b .. | .g9 .. | .g10a .. | .g10b .. | .g11 .. | .g12 .. | .g13 .. | .g14 ..
  | .g15 .. => false
  | .create .. | .destroy | .reset .. | .add .. | .getGroup | .read .. | .lookupIndex => false

/-- A completed group decodes to a GROUP row. -/
theorem decodeGroup_isGroup (p : GroupBlocks) : (decodeGroup p).isGroup = true := by
  unfold decodeGroup
  dsimp only
  split <;> first
    | rfl
    | (unfold decodeG1A; dsimp only; split <;> rfl)
    | (unfold decodeG3A; dsimp only; split <;> [(split <;> rfl); rfl])
    | (unfold decodeG8A; dsimp only; repeat (first | rfl | split))

/-- The argument of `add` decodes to a RAWBLOCK row. -/
theorem decodeBlock_isBlock (r : RawBlock) : (decodeBlock r).isBlock = true := by
  unfold decodeBlock
  dsimp only
  split
  · rfl
  · split <;> rfl

/-! ### Encoding -/

/-- The four blocks of a GROUP row (R84 to R97, R104); none for the other rows. -/
def encodeGroup : Instr → Option GroupBlocks
  | .g0a pi tp pty ta ms dibit seg af1 af2 c0 c1 =>
      some ⟨pi, blockB 0 .a tp pty (lowG0 ta ms dibit seg), bytePair af1 af2, bytePair c0 c1⟩
  | .g0b pi tp pty ta ms dibit seg xC c0 c1 => some ⟨pi, blockB 0 .b tp pty (lowG0 ta ms dibit seg), xC, bytePair c0 c1⟩
  | .g1aEcc pi tp pty xB xC15 xC ecc xD => some ⟨pi, blockB 1 .a tp pty xB, blockC1 xC15 0 (xC ++ ecc), xD⟩
  | .g1aLc pi tp pty xB xC15 xC lc xD => some ⟨pi, blockB 1 .a tp pty xB, blockC1 xC15 3 (xC ++ lc), xD⟩
  | .g1aV1 pi tp pty xB xC15 xC xD => some ⟨pi, blockB 1 .a tp pty xB, blockC1 xC15 1 xC, xD⟩
  | .g1aV2 pi tp pty xB xC15 xC xD => some ⟨pi, blockB 1 .a tp pty xB, blockC1 xC15 2 xC, xD⟩
  | .g1aV4_7 pi tp pty xB xC15 variant xC xD => some ⟨pi, blockB 1 .a tp pty xB, blockC1 xC15 variant xC, xD⟩
  | .g1b pi tp pty xB xC xD => some ⟨pi, blockB 1 .b tp pty xB, xC, xD⟩
  | .g2a pi tp pty ab seg c0 c1 c2 c3 => some ⟨pi, blockB 2 .a tp pty (lowG2 ab seg), bytePair c0 c1, bytePair c2 c3⟩
  | .g2b pi tp pty ab seg xC c0 c1 => some ⟨pi, blockB 2 .b tp pty (lowG2 ab seg), xC, bytePair c0 c1⟩
  | .g3aTmcSys0 pi tp pty gid ver xC ltn afi enhancedMode mgs aid =>
      some ⟨pi, blockB 3 .a tp pty (lowG3 gid ver), blockC3v0 xC ltn afi enhancedMode mgs, aid⟩
  | .g3aTmcSys1 pi tp pty gid ver gap sid tA tW tD aid =>
      some ⟨pi, blockB 3 .a tp pty (lowG3 gid ver), blockC3v1 gap sid tA tW tD, aid⟩
  | .g3aTmcSysX pi tp pty gid ver variant xC aid => some ⟨pi, blockB 3 .a tp pty (lowG3 gid ver), variant ++ xC, aid⟩
  | .g3a pi tp pty gid ver xC aid => some ⟨pi, blockB 3 .a tp pty (lowG3 gid ver), xC, aid⟩
  | .g3b pi tp pty xB xC xD => some ⟨pi, blockB 3 .b tp pty xB, xC, xD⟩
  | .g4a pi tp pty xB mjd hour minute sign mag =>
      some ⟨pi, blockB 4 .a tp pty (lowG4 xB mjd), blockC4 mjd hour, blockD4 hour minute sign mag⟩
  | .g4b pi tp pty xB xC xD => some ⟨pi, blockB 4 .b tp pty xB, xC, xD⟩
  | .g5 pi ver tp pty xB xC xD => some ⟨pi, blockB 5 ver tp pty xB, xC, xD⟩
  | .g6 pi ver tp pty xB xC xD => some ⟨pi, blockB 6 ver tp pty xB, xC, xD⟩
  | .g7 pi ver tp pty xB xC xD => some ⟨pi, blockB 7 ver tp pty xB, xC, xD⟩
  | .g8aTi pi tp pty sg x3 xC xD => some ⟨pi, blockB 8 .a tp pty (lowG8 sg true x3), xC, xD⟩
  | .g8aSg pi tp pty dp div dir extent event loc =>
      some ⟨pi, blockB 8 .a tp pty (lowG8 true false dp), blockC8 div dir extent event, loc⟩
  | .g8aMg1 pi tp pty ci dir extent event loc =>
      some ⟨pi, blockB 8 .a tp pty (lowG8 false false ci), blockC8 true dir extent event, loc⟩
  | .g8aMg2 pi tp pty ci gsi window =>
      some ⟨pi, blockB 8 .a tp pty (lowG8 false false ci), blockC8w true gsi window, window.extractLsb' 0 16⟩
  | .g8aMgn pi tp pty ci gsi window =>
      some ⟨pi, blockB 8 .a tp pty (lowG8 false false ci), blockC8w false gsi window, window.extractLsb' 0 16⟩
  | .g8b pi tp pty xB xC xD => some ⟨pi, blockB 8 .b tp pty xB, xC, xD⟩
  | .g9 pi ver tp pty xB xC xD => some ⟨pi, blockB 9 ver tp pty xB, xC, xD⟩
  | .g10a pi tp pty ab xB seg c0 c1 c2 c3 => some ⟨pi, blockB 10 .a tp pty (lowG10 ab xB seg), bytePair c0 c1, bytePair c2 c3⟩
  | .g10b pi tp pty xB xC xD => some ⟨pi, blockB 10 .b tp pty xB, xC, xD⟩
  | .g11 pi ver tp pty xB xC xD => some ⟨pi, blockB 11 ver tp pty xB, xC, xD⟩
  | .g12 pi ver tp pty xB xC xD => some ⟨pi, blockB 12 ver tp pty xB, xC, xD⟩
  | .g13 pi ver tp pty xB xC xD => some ⟨pi, blockB 13 ver tp pty xB, xC, xD⟩
  | .g14 pi ver tp pty xB xC xD => some ⟨pi, blockB 14 ver tp pty xB, xC, xD⟩
  | .g15 pi ver tp pty xB xC xD => some ⟨pi, blockB 15 ver tp pty xB, xC, xD⟩
  | .blkErr .. | .blkA .. | .blkB .. | .blkC .. | .blkD .. | .blkCp .. | .blkX5 .. | .blkX6 .. | .blkX7 .. => none
  | .create .. | .destroy | .reset .. | .add .. | .getGroup | .read .. | .lookupIndex => none

/-- The RawBlock of a RAWBLOCK row (R80 to R82); none for the other rows. -/
def encodeBlock : Instr → Option RawBlock
  | .blkErr corrected unused label data => some ⟨data, ctrlByte true corrected unused label⟩
  | .blkA corrected unused data => some ⟨data, ctrlByte false corrected unused 0⟩
  | .blkB corrected unused data => some ⟨data, ctrlByte false corrected unused 1⟩
  | .blkC corrected unused data => some ⟨data, ctrlByte false corrected unused 2⟩
  | .blkD corrected unused data => some ⟨data, ctrlByte false corrected unused 3⟩
  | .blkCp corrected unused data => some ⟨data, ctrlByte false corrected unused 4⟩
  | .blkX5 corrected unused data => some ⟨data, ctrlByte false corrected unused 5⟩
  | .blkX6 corrected unused data => some ⟨data, ctrlByte false corrected unused 6⟩
  | .blkX7 corrected unused data => some ⟨data, ctrlByte false corrected unused 7⟩
  | .g0a .. | .g0b .. | .g1aEcc .. | .g1aLc .. | .g1aV1 .. | .g1aV2 .. | .g1aV4_7 .. | .g1b .. | .g2a .. | .g2b .. | .g3aTmcSys0 ..
  | .g3aTmcSys1 .. | .g3aTmcSysX .. | .g3a .. | .g3b .. | .g4a .. | .g4b .. | .g5 .. | .g6 .. | .g7 .. | .g8aTi .. | .g8aSg ..
  | .g8aMg1 .. | .g8aMg2 .. | .g8aMgn .. | .g8b .. | .g9 .. | .g10a .. | .g10b .. | .g11 .. | .g12 .. | .g13 .. | .g14 ..
  | .g15 .. => none
  | .create .. | .destroy | .reset .. | .add .. | .getGroup | .read .. | .lookupIndex => none

/-- The host operation of a HOSTOP row (R310); none for the other rows. -/
def encodeOp : Instr → Option HostOp
  | .create b => some (.createStb b)
  | .destroy => some .destroy
  | .reset p => some (.resetStb p)
  | .add d c => some (.blkStb d c)
  | .getGroup => some .getGroup
  | .read r => some (.read r)
  | .lookupIndex => some .lookupIndex
  | .g0a .. | .g0b .. | .g1aEcc .. | .g1aLc .. | .g1aV1 .. | .g1aV2 .. | .g1aV4_7 .. | .g1b .. | .g2a .. | .g2b .. | .g3aTmcSys0 ..
  | .g3aTmcSys1 .. | .g3aTmcSysX .. | .g3a .. | .g3b .. | .g4a .. | .g4b .. | .g5 .. | .g6 .. | .g7 .. | .g8aTi .. | .g8aSg ..
  | .g8aMg1 .. | .g8aMg2 .. | .g8aMgn .. | .g8b .. | .g9 .. | .g10a .. | .g10b .. | .g11 .. | .g12 .. | .g13 .. | .g14 ..
  | .g15 .. => none
  | .blkErr .. | .blkA .. | .blkB .. | .blkC .. | .blkD .. | .blkCp .. | .blkX5 .. | .blkX6 .. | .blkX7 .. => none

/-! ### Words and bytes -/

/-- The group word `G = A ++ B ++ C ++ D` (R10). -/
def GroupBlocks.word (p : GroupBlocks) : BitVec 64 := p.a ++ p.b ++ p.c ++ p.d

/-- The four payloads of a group word (R10). -/
def GroupBlocks.ofWord (g : BitVec 64) : GroupBlocks :=
  ⟨g.extractLsb' 48 16, g.extractLsb' 32 16, g.extractLsb' 16 16, g.extractLsb' 0 16⟩

/-- A RawBlock as one number: the control byte in bits 7:0, where the table's RAWBLOCK rows have it, and the payload above it
(DESIGN CHOICE, log 8). -/
def RawBlock.word (r : RawBlock) : BitVec 24 := r.data ++ r.block

/-- The RawBlock of such a number (log 8). -/
def RawBlock.ofWord (w : BitVec 24) : RawBlock := ⟨w.extractLsb' 8 16, w.extractLsb' 0 8⟩

/-- Why a string of bytes is not an instruction: its length is neither a RawBlock's nor a group's. -/
inductive DecodeError where
  /-- The number of bytes is neither 3 (a RawBlock) nor 8 (a group). -/
  | wrongLength (length : Nat)
  deriving DecidableEq, Repr

/-- Decode bytes, least significant first (log 8): three bytes are a RawBlock, eight a group word. -/
def decodeBytes : List Byte → Except DecodeError Instr
  | [b0, b1, b2] => .ok (decodeBlock (RawBlock.ofWord (b2 ++ b1 ++ b0)))
  | [b0, b1, b2, b3, b4, b5, b6, b7] =>
      .ok (decodeGroup (GroupBlocks.ofWord (b7 ++ b6 ++ b5 ++ b4 ++ b3 ++ b2 ++ b1 ++ b0)))
  | bs => .error (.wrongLength bs.length)

/-- The first `n` bytes of a number, least significant first. -/
def bytesOf (n : Nat) {w : Nat} (x : BitVec w) : List Byte := (List.range n).map fun k => x.extractLsb' (8 * k) 8

/-- The bytes of an instruction (log 8): eight for a GROUP row, three for a RAWBLOCK row, none for a HOSTOP row, which is a strobe
without an encoding (R105). -/
def encode (i : Instr) : List Byte :=
  match encodeGroup i, encodeBlock i with
  | some p, _ => bytesOf 8 p.word
  | none, some r => bytesOf 3 r.word
  | none, none => []

/-- The instruction the decoder reads from a table row's word (`nbits` as the table gives them, the rest 0): no bits is a strobe
and has no word, up to 24 bits a RawBlock, more a group word (log 8). -/
def decodeTableWord (nbits w : Nat) : Option Instr :=
  if nbits = 0 then none
  else if nbits ≤ 24 then (decodeBytes (bytesOf 3 (BitVec.ofNat 24 (w % 2 ^ nbits)))).toOption
  else (decodeBytes (bytesOf 8 (BitVec.ofNat 64 (w % 2 ^ nbits)))).toOption

/-! ### The opcode table as data -/

/-- A GROUP or RAWBLOCK row of `spec/opcode_table.json`: its mnemonic, match and mask (R105). -/
structure OpcodeRow where
  mnemonic : String
  bits     : Nat
  mask     : Nat
  deriving DecidableEq, Repr

/-- The 34 GROUP rows in file order, over the group word (R105). -/
def groupRows : List OpcodeRow :=
  [⟨"G0A", 0x0000000000000000, 0x0000F80000000000⟩, ⟨"G0B", 0x0000080000000000, 0x0000F80000000000⟩,
   ⟨"G1A_ECC", 0x0000100000000000, 0x0000F80070000000⟩, ⟨"G1A_LC", 0x0000100030000000, 0x0000F80070000000⟩,
   ⟨"G1A_V1", 0x0000100010000000, 0x0000F80070000000⟩, ⟨"G1A_V2", 0x0000100020000000, 0x0000F80070000000⟩,
   ⟨"G1A_V4_7", 0x0000100040000000, 0x0000F80040000000⟩, ⟨"G1B", 0x0000180000000000, 0x0000F80000000000⟩,
   ⟨"G2A", 0x0000200000000000, 0x0000F80000000000⟩, ⟨"G2B", 0x0000280000000000, 0x0000F80000000000⟩]
  ++ [⟨"G3A_TMC_SYS0", 0x000030000000CD46, 0x0000F800C000FFFE⟩, ⟨"G3A_TMC_SYS1", 0x000030004000CD46, 0x0000F800C000FFFE⟩,
   ⟨"G3A_TMC_SYSX", 0x000030008000CD46, 0x0000F8008000FFFE⟩, ⟨"G3A", 0x0000300000000000, 0x0000F80000000000⟩,
   ⟨"G3B", 0x0000380000000000, 0x0000F80000000000⟩, ⟨"G4A", 0x0000400000000000, 0x0000F80000000000⟩,
   ⟨"G4B", 0x0000480000000000, 0x0000F80000000000⟩, ⟨"G5", 0x0000500000000000, 0x0000F00000000000⟩,
   ⟨"G6", 0x0000600000000000, 0x0000F00000000000⟩, ⟨"G7", 0x0000700000000000, 0x0000F00000000000⟩]
  ++ [⟨"G8A_TI", 0x0000800800000000, 0x0000F80800000000⟩, ⟨"G8A_SG", 0x0000801000000000, 0x0000F81800000000⟩,
   ⟨"G8A_MG1", 0x0000800080000000, 0x0000F81880000000⟩, ⟨"G8A_MG2", 0x0000800040000000, 0x0000F818C0000000⟩,
   ⟨"G8A_MGN", 0x0000800000000000, 0x0000F818C0000000⟩, ⟨"G8B", 0x0000880000000000, 0x0000F80000000000⟩,
   ⟨"G9", 0x0000900000000000, 0x0000F00000000000⟩, ⟨"G10A", 0x0000A00000000000, 0x0000F80000000000⟩,
   ⟨"G10B", 0x0000A80000000000, 0x0000F80000000000⟩, ⟨"G11", 0x0000B00000000000, 0x0000F00000000000⟩,
   ⟨"G12", 0x0000C00000000000, 0x0000F00000000000⟩, ⟨"G13", 0x0000D00000000000, 0x0000F00000000000⟩,
   ⟨"G14", 0x0000E00000000000, 0x0000F00000000000⟩, ⟨"G15", 0x0000F00000000000, 0x0000F00000000000⟩]

/-- The 9 RAWBLOCK rows in file order, over the control byte (R105). -/
def blockRows : List OpcodeRow :=
  [⟨"BLK_ERR", 0x80, 0x80⟩, ⟨"BLK_A", 0x00, 0x87⟩, ⟨"BLK_B", 0x01, 0x87⟩, ⟨"BLK_C", 0x02, 0x87⟩, ⟨"BLK_D", 0x03, 0x87⟩,
   ⟨"BLK_Cp", 0x04, 0x87⟩, ⟨"BLK_X5", 0x05, 0x87⟩, ⟨"BLK_X6", 0x06, 0x87⟩, ⟨"BLK_X7", 0x07, 0x87⟩]

/-- The first row whose match equals the word under its mask (R105: "the first matching row in file order"). -/
def firstRow (rows : List OpcodeRow) (w : Nat) : Option String := (rows.find? fun r => w &&& r.mask == r.bits).map (·.mnemonic)

/-- An instruction's row in `spec/opcode_table.json`. -/
def Instr.mnemonic : Instr → String
  | .g0a .. => "G0A" | .g0b .. => "G0B" | .g1aEcc .. => "G1A_ECC" | .g1aLc .. => "G1A_LC" | .g1aV1 .. => "G1A_V1"
  | .g1aV2 .. => "G1A_V2" | .g1aV4_7 .. => "G1A_V4_7" | .g1b .. => "G1B" | .g2a .. => "G2A" | .g2b .. => "G2B"
  | .g3aTmcSys0 .. => "G3A_TMC_SYS0" | .g3aTmcSys1 .. => "G3A_TMC_SYS1" | .g3aTmcSysX .. => "G3A_TMC_SYSX" | .g3a .. => "G3A"
  | .g3b .. => "G3B" | .g4a .. => "G4A" | .g4b .. => "G4B" | .g5 .. => "G5" | .g6 .. => "G6" | .g7 .. => "G7"
  | .g8aTi .. => "G8A_TI" | .g8aSg .. => "G8A_SG" | .g8aMg1 .. => "G8A_MG1" | .g8aMg2 .. => "G8A_MG2" | .g8aMgn .. => "G8A_MGN"
  | .g8b .. => "G8B" | .g9 .. => "G9" | .g10a .. => "G10A" | .g10b .. => "G10B" | .g11 .. => "G11" | .g12 .. => "G12"
  | .g13 .. => "G13" | .g14 .. => "G14" | .g15 .. => "G15" | .blkErr .. => "BLK_ERR" | .blkA .. => "BLK_A" | .blkB .. => "BLK_B"
  | .blkC .. => "BLK_C" | .blkD .. => "BLK_D" | .blkCp .. => "BLK_Cp" | .blkX5 .. => "BLK_X5" | .blkX6 .. => "BLK_X6"
  | .blkX7 .. => "BLK_X7" | .create .. => "CREATE" | .destroy => "DESTROY" | .reset .. => "RESET" | .add .. => "ADD"
  | .getGroup => "GET_GROUP" | .read .. => "READ" | .lookupIndex => "LOOKUP_INDEX"

end Sys2Proof
end

