-- ==== Sys2Proof/Machine/Operands.lean ====
section
/-! DEFINITION. The operand forms: the Group record of a group (R143), positions in the texts (R61), AF byte codes (R97), clock-time
fields and their conversion (R93, R243 to R245), TMC primary fields, windows and the optional-field stream (R96, R263, R270), and what
an observer reads (R315, R318). -/

namespace Sys2Proof.Machine

/-! ### Groups -/

/-- The Group record of a group with that PI, id, version, low five bits of block B, block C and block D (R143). -/
def groupRecord (pi : Word) (gid : BitVec 4) (ver : Version) (low : BitVec 5) (c d : Word) : Group where
  pi := pi
  groupId := gid
  version := ver
  dataBLsb := low
  dataCMsb := c.extractLsb' 8 8
  dataCLsb := c.extractLsb' 0 8
  dataDMsb := d.extractLsb' 8 8
  dataDLsb := d.extractLsb' 0 8

/-- The Group record of the four payloads (R143). -/
def Group.ofBlocks (p : GroupBlocks) : Group :=
  groupRecord p.a (p.b.extractLsb' 12 4) (Version.ofBit (p.b.getLsbD 11)) (p.b.extractLsb' 0 5) p.c p.d

/-! ### Positions in the internal arrays (R61) -/

/-- The position in `new_ps` of the first (`second` false) or second character of a segment (R163). -/
def psPos (seg : BitVec 2) (second : Bool) : Fin 8 :=
  ⟨2 * seg.toNat + second.toNat, by have := seg.isLt; cases second <;> simp <;> omega⟩

/-- The position in `new_rt` of character `j` of a 2A segment (R203). -/
def rtPosA (seg : BitVec 4) (j : Fin 4) : Fin 64 := ⟨4 * seg.toNat + j.val, by have := seg.isLt; have := j.isLt; omega⟩

/-- The position in `new_rt` of character `j` of a 2B segment (R203). -/
def rtPosB (seg : BitVec 4) (j : Fin 2) : Fin 64 := ⟨2 * seg.toNat + j.val, by have := seg.isLt; have := j.isLt; omega⟩

/-- The half of the PTYN a segment bit names (R302). -/
def ptynHalf (seg : Bool) : Fin 2 := if seg then 1 else 0

/-- `v` with bit `i` set to `b`. -/
def setBit {w : Nat} (v : BitVec w) (i : Nat) (b : Bool) : BitVec w :=
  if b then v ||| (1#w <<< i) else v &&& ~~~(1#w <<< i)

/-! ### AF byte codes (R97) -/

/-- What a plain AF byte means (R169). -/
inductive AfCode where
  | vhf (hz : BitVec 32)
  | announce (count : BitVec 5)
  | ignored
  deriving DecidableEq, Repr

/-- The meaning of a plain AF byte (R97, R169): 1 to 204 a VHF frequency, 224 to 249 an announcement, the rest nothing. -/
def afCode (n : Byte) : AfCode :=
  if 1 ≤ n.toNat ∧ n.toNat ≤ 204 then .vhf (BitVec.ofNat 32 (87500000 + n.toNat * 100000))
  else if 224 ≤ n.toNat ∧ n.toNat ≤ 249 then .announce (BitVec.ofNat 5 (n.toNat - 224))
  else .ignored

/-- The frequency of an LF/MF code (R97, R172); code 0 has none. -/
def lfmfFrequency (n : Byte) : Option (BitVec 32) :=
  if n.toNat = 0 then none
  else if n.toNat ≤ 15 then some (BitVec.ofNat 32 (153000 + (n.toNat - 1) * 9000))
  else some (BitVec.ofNat 32 (531000 + (n.toNat - 16) * 9000))

/-! ### Clock-time (R241 to R247) -/

/-- The signed offset in minutes (R243). -/
def offsetMinutes (sign : Bool) (mag : BitVec 5) : Int := if sign then -30 * (mag.toNat : Int) else 30 * (mag.toNat : Int)

/-- Local minutes since UTC midnight (R244). -/
def localMinutes (hour : BitVec 5) (minute : BitVec 6) (off : Int) : Int := 60 * (hour.toNat : Int) + (minute.toNat : Int) + off

/-- `y` of R245, in its integer form. -/
def mjdY (m : Int) : Int := (100 * m - 1507820) / 36525

/-- `yp` of R245: `floor(y * 365.25)`. -/
def mjdYp (m : Int) : Int := 1461 * mjdY m / 4

/-- `m` of R245, in its integer form. -/
def mjdM (m : Int) : Int := (10000 * (m - mjdYp m) - 149561000) / 306001

/-- `k` of R245. -/
def mjdK (m : Int) : Int := if mjdM m = 14 ∨ mjdM m = 15 then 1 else 0

/-- The year since 1900 of a Modified Julian Day (R245). -/
def mjdYear (m : Int) : Int := mjdY m + mjdK m

/-- The month of a Modified Julian Day, 1 is January (R245, C3). -/
def mjdMonth (m : Int) : Int := mjdM m - 1 - 12 * mjdK m

/-- The day of the month of a Modified Julian Day (R245). -/
def mjdDay (m : Int) : Int := m - 14956 - mjdYp m - 306001 * mjdM m / 10000

/-- The civil timestamp of the fields of a clock-time group (R243, R244, R245, R247): the day carry is added to the MJD. -/
def civilTime (mjd : BitVec 17) (hour : BitVec 5) (minute : BitVec 6) (sign : Bool) (mag : BitVec 5) : CivilTime :=
  let off := offsetMinutes sign mag
  let t := localMinutes hour minute off
  let localMjd := (mjd.toNat : Int) + t / 1440
  { year := mjdYear localMjd
    month := mjdMonth localMjd
    day := mjdDay localMjd
    hour := t % 1440 / 60
    minute := t % 1440 % 60
    second := 0
    gmtoff := 60 * off }

/-! ### TMC (R96, R263, R270) -/

/-- The pending record with the primary fields of blocks C and D (R263), that `dp`, and no window. -/
def tmcPrimary (dp : BitVec 3) (div dir : Bool) (extent : BitVec 3) (event : BitVec 11) (loc : Word) : TmcPending where
  dp := dp
  followDiversion := div
  negDirection := dir
  extent := extent
  event := event
  location := loc
  length := 0

/-- A window as the 32-bit word it is stored as: left-aligned, the four low bits zero (R96). -/
def windowWord (window : BitVec 28) : BitVec 32 := window ++ 0#4

/-- The optional-field stream: the usable bits 31:4 of the four windows, the first bit most significant (R96, R270). Bits past the
populated windows are never read. -/
def tmcStream (w : Vector (BitVec 32) Config.tmcWindows) : BitVec 112 :=
  w[0].extractLsb' 4 28 ++ w[1].extractLsb' 4 28 ++ w[2].extractLsb' 4 28 ++ w[3].extractLsb' 4 28

/-- `read(k)` at cursor `pos` (R270): the `k` bits from `pos` on, first bit most significant. -/
def readStream (s : BitVec 112) (pos k : Nat) : BitVec k := s.extractLsb' (112 - (pos + k)) k

/-- `L(label)`, the data length of an optional-field label (the table of R96). -/
def labelLength (label : BitVec 4) : Nat :=
  match label.toNat with
  | 0 => 3 | 1 => 3 | 2 => 5 | 3 => 5 | 4 => 5 | 5 => 8 | 6 => 8 | 7 => 8 | 8 => 8 | 9 => 11 | 10 => 16 | 11 => 16 | 12 => 16
  | 13 => 16 | _ => 0

/-- Append one record (R271): label 15 is skipped, and a record beyond the bound is dropped. -/
def appendField (out : Additional) (label : BitVec 4) (data : Word) : Additional :=
  if label = 15 then out
  else if h : out.size < Config.maxTmcFields then { size := out.size + 1, fields := out.fields.set out.size ⟨label, data⟩ h }
  else out

/-- The unpacking loop of R270 from a cursor on, for at most `fuel` records. -/
def unpackLoop (s : BitVec 112) (total : Nat) : Nat → Nat → Additional → Additional
  | 0, _, out => out
  | fuel + 1, pos, out =>
    if total < pos + 4 then out
    else
      let label := readStream s pos 4
      let len := labelLength label
      if total < pos + 4 + len then out
      else unpackLoop s total fuel (pos + 4 + len) (appendField out label ((readStream s (pos + 4) len).setWidth 16))

/-- `unpack(n)` (R270): the optional fields of `n` windows. Each record moves the cursor by at least 4 of at most 112 bits, so 28
rounds are enough (R270 corner case (c)). -/
def unpack (n : Nat) (w : Vector (BitVec 32) Config.tmcWindows) : Additional :=
  unpackLoop (tmcStream w) (Config.tmcWindowBits * n) 28 0 Additional.zero

/-! ### Observation (R315, R318) -/

/-- The value of a public register (R315). Of the two sets only the meaningful entries are shown (R25, R26; log 11). -/
def State.readReg (s : State) : PublicReg → ReadValue
  | .pi => .bits 16 s.pi
  | .pty => .bits 5 s.pty
  | .tp => .flag s.tp
  | .ta => .flag s.ta
  | .ms => .flag s.ms
  | .di => .bits 4 s.di
  | .ecc => .bits 8 s.ecc
  | .lc => .bits 8 s.lc
  | .rtAbFlag => .flag s.rtAbFlag
  | .ptynAbFlag => .flag s.ptynAbFlag
  | .ps => .chars s.ps.toList
  | .rt => .chars s.rt.toList
  | .rtLength => .bits 7 s.rtLength
  | .ptyn => .chars s.ptyn.toList
  | .rdsAf => .afSet s.rdsAf.announcedAf (s.rdsAf.af.toList.take s.rdsAf.size.toNat)
  | .rdsOda => .odaTable (s.rdsOda.oda.toList.take s.rdsOda.size)
  | .time => .time s.time
  | .tmcSys => .tmcSys s.tmcSys
  | .tmcMsg => .tmcMsg s.tmcMsg
  | .stats => .statistics s.stats
  | .validFields => .bits 32 s.validFields
  | .decodeInformation => .bits 32 s.decodeInformation
  | .rdsGroup => .group s.rdsGroup
  | .isRbds => .flag s.isRbds

/-- An ECC the country table has a row for (R318): 0xE0 to 0xE4 always; for any other ECC but 0, which is no ECC
(`95_test_vectors.md` P1), the table's owner decides (log 9). -/
def countryInRange (ecc : Byte) : Bool :=
  (decide (0xE0 ≤ ecc.toNat) && decide (ecc.toNat ≤ 0xE4)) || (ecc != 0 && Config.countryRowBeyond ecc)

/-- The lookup indices, formed from the public registers whether or not they are valid (R318). -/
def State.lookupIndices (s : State) : LookupIndices where
  ptyIsRbds := s.isRbds
  pty := s.pty
  ptyInRange := true
  coverage := s.pi.extractLsb' 8 4
  coverInRange := true
  countryEcc := s.ecc
  countryPi := s.pi.extractLsb' 12 4
  countryInRange := countryInRange s.ecc
  language := s.lc
  langInRange := decide (s.lc.toNat ≤ 127)

end Sys2Proof.Machine
end

