-- ==== Sys2Proof/Machine/Ops.lean ====
section
/-! DEFINITION. The shared operations: the guard every operation but `create` has, the counters (R11, R30, R121), the group error,
which is this hardware's counterpart of taking an exception (R127, R336), the validation buffers' observation (R141), the common
extractors (R140 to R147), and the input and output ports of a step (R13, R47, R310). There is no return from an exception (R337). -/

namespace Sys2Proof.Machine

/-! ### The instance and the ports -/

/-- Run an effect on the instance, if there is one (R312, R364, U2; log 5). -/
def whenCreated (s : State) (effect : State → State) : Answer := if s.created then .next (effect s) else .refused .destroyed

/-- The output ports at the start of an operation: the mask starts at zero (R31, R140) and nothing has been returned (log 3). -/
def State.clearOutputs (s : State) : State := { s with updMask := 0, readOut := none }

/-- Take the next host operation from the input (R47, R73; log 1). -/
def fetchOp (s : State) : Option (HostOp × State) :=
  match s.pending with
  | [] => none
  | op :: rest => some (op, { s with pending := rest })

/-- A step without an operation: the registers are held (R344), and no mask and no value is on the ports (log 4). -/
def idle (s : State) : State := s.clearOutputs

/-- Put one operation in front of the input still to come. -/
def State.pushOp (s : State) (op : HostOp) : State := { s with pending := op :: s.pending }

/-- The assembler with blocks A, B and C of a group taken and its block D next in the input, so that the next step completes that
group (R126; log 7). -/
def State.stageGroup (s : State) (p : GroupBlocks) : State :=
  { s with
    decodeState := .cReceived
    rdsDataRaw := #v[⟨p.a, 0⟩, ⟨p.b, 1⟩, ⟨p.c, 2⟩, s.rdsDataRaw[3]]
    pending := .blkStb p.d 3 :: s.pending }

/-! ### Counters and error events -/

/-- `count(c)`: modulo 2^32 (R11, R340). -/
def count (c : Counter) : Counter := c + 1

/-- The counters at entry of `add` (R121): every block, then a block error, else a corrected block. -/
def countBlock (error corrected : Bool) (s : State) : State :=
  { s with
    stats := { s.stats with
      blockCnt := count s.stats.blockCnt
      blockErrorCnt := if error then count s.stats.blockErrorCnt else s.stats.blockErrorCnt
      blockCorrectedCnt :=
        if !error && corrected then count s.stats.blockCorrectedCnt else s.stats.blockCorrectedCnt } }

/-- The error event E3 (R127, R330, R336): the counter, and the assembler back to Empty; nothing is saved and nothing else changes. -/
def groupError (s : State) : State :=
  { s with
    stats := { s.stats with groupErrorCnt := count s.stats.groupErrorCnt }
    decodeState := .empty }

/-! ### The common extractors -/

/-- PI through its validation buffer (R141, R142). -/
def observePi (x : Word) (s : State) : State :=
  let staged := { s with newPi := x }
  if accepts s.pi s.newPi x then ({ staged with pi := x }.validate .pi).raise .pi else staged

/-- PTY through its validation buffer (R141, R145). -/
def observePty (x : BitVec 5) (s : State) : State :=
  let staged := { s with newPty := x }
  if accepts s.pty s.newPty x then ({ staged with pty := x }.validate .pty).raise .pty else staged

/-- TP, accepted at once (R144). -/
def acceptTp (x : Bool) (s : State) : State := ({ s with tp := x }.raiseIf .tp (x != s.tp)).validate .tp

/-- The per-type counter, both versions together (R147). -/
def countGroupType (gid : BitVec 4) (s : State) : State :=
  { s with
    stats := { s.stats with
      groupTypeCnt := s.stats.groupTypeCnt.set gid.toNat (count (s.stats.groupTypeCnt[gid.toNat]'gid.isLt)) gid.isLt } }

/-- What every completed group does before its decoder (R140, R142 to R147): PI, the Group record, TP, PTY, the counter. -/
def commonExtractors (g : Group) (tp : Bool) (pty : BitVec 5) (s : State) : State :=
  countGroupType g.groupId (observePty pty (acceptTp tp { observePi g.pi s with rdsGroup := g }))

/-- The decode of one completed group (R140): the common extractors, then the decoder of its type, into one mask from zero. -/
def onGroup (g : Group) (tp : Bool) (pty : BitVec 5) (decoder : State → State) (s : State) : Answer :=
  whenCreated s fun s => decoder (commonExtractors g tp pty s.clearOutputs)

end Sys2Proof.Machine
end

