-- ==== Sys2Proof/Machine/Group0.lean ====
section
/-! DEFINITION. Group type 0, basic tuning: TA, MS, PS, DI and, for version A, AF (`42_group0_basic_tuning.md`). -/

namespace Sys2Proof.Machine

/-- TA, accepted at once (R161). -/
def acceptTa (x : Bool) (s : State) : State := ({ s with ta := x }.raiseIf .ta (x != s.ta)).validate .ta

/-- MS, accepted at once (R162). -/
def acceptMs (x : Bool) (s : State) : State := ({ s with ms := x }.raiseIf .ms (x != s.ms)).validate .ms

/-- One PS character staged (R163): an agreeing one marks its position, a disagreeing one replaces the staged one and clears all
eight flags. -/
def addPs (pos : Fin 8) (ch : Byte) (s : State) : State :=
  if ch = s.newPs[pos] then { s with newPsValid := s.newPsValid.set pos true }
  else { s with newPs := s.newPs.set pos ch, newPsValid := Vector.replicate _ false }

/-- PS publication (R164). -/
def publishPs (s : State) : State :=
  if ∀ i : Fin 8, s.newPsValid[i] = true then
    ({ s with ps := s.newPs }.raiseIf .ps (s.newPs != s.ps)).validate .ps
  else s

/-- DI completion (R166). -/
def completeDi (b : Bool) (s : State) : State :=
  let v := setBit s.newDi (Config.diBitOfSegment 3) b
  ({ s with newDi := v, nextDiSegment := 0, di := v }.raiseIf .di (v != s.di)).validate .di

/-- DI accumulation (R165): segment 0 restarts, the expected segment is taken, segment 3 in order completes, any other resets. -/
def stepDi (seg : BitVec 2) (b : Bool) (s : State) : State :=
  if seg = 0 then { s with newDi := setBit 0 (Config.diBitOfSegment 0) b, nextDiSegment := 1 }
  else if seg = s.nextDiSegment ∧ seg ≠ 3 then
    { s with newDi := setBit s.newDi (Config.diBitOfSegment seg.toNat) b, nextDiSegment := seg + 1 }
  else if seg = s.nextDiSegment ∧ seg = 3 then completeDi b s
  else { s with newDi := 0, nextDiSegment := 0 }

/-! ### Alternative frequencies (R168 to R173) -/

/-- The set holds that frequency among its meaningful entries. -/
def AfSet.holds (a : AfSet) (f : BitVec 32) : Bool := decide (∃ i : Fin 25, i.val < a.size.toNat ∧ a.af[i] = f)

/-- Insertion (R171): not when the set is full or complete, and no duplicate. -/
def AfSet.insert (f : BitVec 32) (a : AfSet) : AfSet :=
  if h : a.size.toNat < Config.maxAf then
    if a.size.toNat < a.announcedAf.toNat ∧ a.holds f = false then
      { a with af := a.af.set a.size.toNat f h, size := a.size + 1 }
    else a
  else a

/-- Announcement (R170): a smaller count drops the entries beyond it. -/
def AfSet.announce (k : BitVec 5) (a : AfSet) : AfSet :=
  { a with announcedAf := k, size := if k.toNat < a.size.toNat then k else a.size }

/-- One plain AF byte (R169). -/
def AfSet.plain (n : Byte) (a : AfSet) : AfSet :=
  match afCode n with
  | .vhf f => a.insert f
  | .announce k => a.announce k
  | .ignored => a

/-- The LF/MF byte that follows code 250 (R172). -/
def AfSet.lfmf (n : Byte) (a : AfSet) : AfSet :=
  match lfmfFrequency n with
  | some f => a.insert f
  | none => a

/-- The two AF bytes, the first before the second (R168). -/
def AfSet.pair (b1 b2 : Byte) (a : AfSet) : AfSet := if b1 = 250 then a.lfmf b2 else (a.plain b1).plain b2

/-- The two sets are equal in what is meaningful: the announced count, the size, and the entries below the size (R168). -/
def AfSet.same (a b : AfSet) : Bool :=
  a.announcedAf == b.announcedAf && a.size == b.size
    && decide (∀ i : Fin 25, i.val < a.size.toNat → a.af[i] = b.af[i])

/-- The AF pair of a 0A group (R168, R173): the set, its validity, and the mask bit. -/
def addAfPair (b1 b2 : Byte) (s : State) : State :=
  let a := s.rdsAf.pair b1 b2
  let s' := { s with rdsAf := a }
  let s' := if a.announcedAf ≠ 0 ∧ a.size = a.announcedAf then s'.validate .af else s'
  s'.raiseIf .af (!a.same s.rdsAf)

/-- What both versions do (R160): TA, MS, the two PS characters, PS publication, DI. -/
def basicTuning (ta ms dibit : Bool) (seg : BitVec 2) (c0 c1 : Byte) (s : State) : State :=
  stepDi seg dibit (publishPs (addPs (psPos seg true) c1 (addPs (psPos seg false) c0 (acceptMs ms (acceptTa ta s)))))

/-- `G0A` (R160 to R173). -/
def execG0A (pi : Word) (tp : Bool) (pty : BitVec 5) (ta ms dibit : Bool) (seg : BitVec 2) (af1 af2 c0 c1 : Byte) (s : State) :
    Answer :=
  onGroup (groupRecord pi 0 .a (lowG0 ta ms dibit seg) (bytePair af1 af2) (bytePair c0 c1)) tp pty
    (fun s => addAfPair af1 af2 (basicTuning ta ms dibit seg c0 c1 s)) s

/-- `G0B` (R160 to R166, R174): block C is not read. -/
def execG0B (pi : Word) (tp : Bool) (pty : BitVec 5) (ta ms dibit : Bool) (seg : BitVec 2) (xC : Word) (c0 c1 : Byte) (s : State) :
    Answer :=
  onGroup (groupRecord pi 0 .b (lowG0 ta ms dibit seg) xC (bytePair c0 c1)) tp pty (basicTuning ta ms dibit seg c0 c1) s

end Sys2Proof.Machine
end

