-- ==== Sys2Proof/Machine/Group1.lean ====
section
/-! DEFINITION. Group type 1, slow labelling: ECC and LC (`43_group1_slow_labelling.md`). -/

namespace Sys2Proof.Machine

/-- ECC through its validation buffer (R141, R191). -/
def observeEcc (x : Byte) (s : State) : State :=
  let staged := { s with newEcc := x }
  if accepts s.ecc s.newEcc x then ({ staged with ecc := x }.validate .ecc).raise .ecc else staged

/-- LC through its validation buffer (R141, R192). -/
def observeLc (x : Byte) (s : State) : State :=
  let staged := { s with newLc := x }
  if accepts s.lc s.newLc x then ({ staged with lc := x }.validate .lc).raise .lc else staged

/-- `G1A_ECC` (R190, R191). -/
def execG1AEcc (pi : Word) (tp : Bool) (pty xB : BitVec 5) (xC15 : Bool) (xC : BitVec 4) (ecc : Byte) (xD : Word) (s : State) :
    Answer :=
  onGroup (groupRecord pi 1 .a xB (blockC1 xC15 0 (xC ++ ecc)) xD) tp pty (observeEcc ecc) s

/-- `G1A_LC` (R190, R192). -/
def execG1ALc (pi : Word) (tp : Bool) (pty xB : BitVec 5) (xC15 : Bool) (xC : BitVec 4) (lc : Byte) (xD : Word) (s : State) :
    Answer :=
  onGroup (groupRecord pi 1 .a xB (blockC1 xC15 3 (xC ++ lc)) xD) tp pty (observeLc lc) s

/-- `G1A_V1`, ignored (R100, R190). -/
def execG1AV1 (pi : Word) (tp : Bool) (pty xB : BitVec 5) (xC15 : Bool) (xC : BitVec 12) (xD : Word) (s : State) : Answer :=
  onGroup (groupRecord pi 1 .a xB (blockC1 xC15 1 xC) xD) tp pty id s

/-- `G1A_V2`, ignored (R100, R190). -/
def execG1AV2 (pi : Word) (tp : Bool) (pty xB : BitVec 5) (xC15 : Bool) (xC : BitVec 12) (xD : Word) (s : State) : Answer :=
  onGroup (groupRecord pi 1 .a xB (blockC1 xC15 2 xC) xD) tp pty id s

/-- `G1A_V4_7`, ignored (R100, R190). -/
def execG1AV4to7 (pi : Word) (tp : Bool) (pty xB : BitVec 5) (xC15 : Bool) (variant : BitVec 3) (xC : BitVec 12) (xD : Word)
    (s : State) : Answer :=
  onGroup (groupRecord pi 1 .a xB (blockC1 xC15 variant xC) xD) tp pty id s

end Sys2Proof.Machine
end

