-- ==== Sys2Proof/Machine/Group10.lean ====
section
/-! DEFINITION. Group type 10A, programme type name (`48_group10_ptyn.md`). -/

namespace Sys2Proof.Machine

/-- The A/B flag toggle (R301): a changed flag clears the public name, both staged halves and their flags. -/
def togglePtyn (ab : Bool) (s : State) : State :=
  if ab = s.ptynAbFlag then s
  else
    ({ s with
        ptynAbFlag := ab
        ptyn := Vector.replicate _ 0
        newPtyn := Vector.replicate _ (Vector.replicate _ 0)
        newPtynValid := Vector.replicate _ false }.invalidate .ptyn).raise .ptyn

/-- Staging of one half (R302). -/
def stagePtyn (h : Fin 2) (p : Chars 4) (s : State) : State :=
  if p = s.newPtyn[h] then { s with newPtynValid := s.newPtynValid.set h true }
  else { s with newPtyn := s.newPtyn.set h p, newPtynValid := s.newPtynValid.set h false }

/-- Publication of the name (R303). -/
def publishPtyn (s : State) : State :=
  if s.newPtynValid[0] = true ∧ s.newPtynValid[1] = true then
    let n : Chars Config.ptynLen := s.newPtyn[0] ++ s.newPtyn[1]
    ({ s with ptyn := n }.raiseIf .ptyn (n != s.ptyn)).validate .ptyn
  else s

/-- `G10A` (R300 to R303). -/
def execG10A (pi : Word) (tp : Bool) (pty : BitVec 5) (ab : Bool) (xB : BitVec 3) (seg : Bool) (c0 c1 c2 c3 : Byte) (s : State) :
    Answer :=
  onGroup (groupRecord pi 10 .a (lowG10 ab xB seg) (bytePair c0 c1) (bytePair c2 c3)) tp pty
    (fun s => publishPtyn (stagePtyn (ptynHalf seg) #v[c0, c1, c2, c3] (togglePtyn ab s))) s

end Sys2Proof.Machine
end

