-- ==== Sys2Proof/Machine/Group2.lean ====
section
/-! DEFINITION. Group type 2, radio text (`44_group2_radiotext.md`). -/

namespace Sys2Proof.Machine

/-- The A/B flag toggle (R201): a changed flag clears the staged and the public text. -/
def toggleRt (ab : Bool) (s : State) : State :=
  if ab = s.rtAbFlag then s
  else
    ({ s with
        rtAbFlag := ab
        newRt := Vector.replicate _ 0
        rt := Vector.replicate _ 0
        rtLength := 0
        nextRtSegment := 0 }.invalidate .rt).raise .rt

/-- Segment acceptance (R202): segment 0 always, else the expected one. -/
def acceptsRtSegment (seg : BitVec 4) (s : State) : Bool := seg == 0 || seg.setWidth 5 == s.nextRtSegment

/-- The first `len` staged characters, padded with 0x00 (R204). -/
def rtText (len : Nat) (staged : Chars Config.rtLen) : Chars Config.rtLen :=
  Vector.ofFn fun i => if i.val < len then staged[i] else 0

/-- Publication of the radio text (R204), but for its comparison, which `reportRt` makes once for the whole group (log 10). -/
def publishRt (len : Nat) (s : State) : State :=
  { s with rt := rtText len s.newRt, rtLength := BitVec.ofNat 7 len, nextRtSegment := 0 }.validate .rt

/-- The four characters of a 2A segment staged (R203). -/
def storeRtA (seg : BitVec 4) (c0 c1 c2 c3 : Byte) (s : State) : State :=
  { s with
    newRt := (((s.newRt.set (rtPosA seg 0) c0).set (rtPosA seg 1) c1).set (rtPosA seg 2) c2).set (rtPosA seg 3) c3
    nextRtSegment := seg.setWidth 5 + 1 }

/-- The two characters of a 2B segment staged (R203). -/
def storeRtB (seg : BitVec 4) (c0 c1 : Byte) (s : State) : State :=
  { s with
    newRt := (s.newRt.set (rtPosB seg 0) c0).set (rtPosB seg 1) c1
    nextRtSegment := seg.setWidth 5 + 1 }

/-- The least position of a 0x0D among the staged characters (R205). -/
def firstTerminator (staged : Chars Config.rtLen) : Option (Fin 64) :=
  (List.finRange 64).find? fun i => staged[i] == 0x0D

/-- Early termination (R205): the least staged 0x0D becomes 0x00 and ends the text there. -/
def terminateRt (s : State) : State :=
  match firstTerminator s.newRt with
  | none => s
  | some k => publishRt k.val { s with newRt := s.newRt.set k 0 }

/-- Acceptance, store and completion of a segment (R202, R203): `store` stages the characters, `full` is the length that segment 15
completes. -/
def takeRtSegment (seg : BitVec 4) (store : State → State) (full : Nat) (s : State) : State :=
  if acceptsRtSegment seg s then if seg = 15 then publishRt full (store s) else store s else s

/-- The comparison of R204: the mask bit is raised if the text or its length differs from the pre-call value (R151, D27; DEDUCED,
log 10). `before` is the state before the first rule of the group that writes the text. -/
def reportRt (before s : State) : State := s.raiseIf .rt (s.rt != before.rt || s.rtLength != before.rtLength)

/-- The type-2 decoder (R200): toggle, acceptance, store and completion, scan, in that order, and the comparison. -/
def radioText (ab : Bool) (seg : BitVec 4) (store : State → State) (full : Nat) (s : State) : State :=
  reportRt s (terminateRt (takeRtSegment seg store full (toggleRt ab s)))

/-- `G2A` (R200 to R205). -/
def execG2A (pi : Word) (tp : Bool) (pty : BitVec 5) (ab : Bool) (seg : BitVec 4) (c0 c1 c2 c3 : Byte) (s : State) : Answer :=
  onGroup (groupRecord pi 2 .a (lowG2 ab seg) (bytePair c0 c1) (bytePair c2 c3)) tp pty
    (radioText ab seg (storeRtA seg c0 c1 c2 c3) 64) s

/-- `G2B` (R200 to R205): block C is not read. -/
def execG2B (pi : Word) (tp : Bool) (pty : BitVec 5) (ab : Bool) (seg : BitVec 4) (xC : Word) (c0 c1 : Byte) (s : State) : Answer :=
  onGroup (groupRecord pi 2 .b (lowG2 ab seg) xC (bytePair c0 c1)) tp pty
    (radioText ab seg (storeRtB seg c0 c1) 32) s

end Sys2Proof.Machine
end

