-- ==== Sys2Proof/Machine/Group3.lean ====
section
/-! DEFINITION. Group type 3: the open-data-application table and the TMC system parameters (`45_group3_oda_tmc_system.md`). -/

namespace Sys2Proof.Machine

/-- The row of an announced group among the meaningful rows (R221). -/
def OdaTable.find (gid : BitVec 4) (ver : Version) (t : OdaTable) : Option (Fin 18) :=
  (List.finRange 18).find? fun i => decide (i.val < t.size) && t.oda[i].groupId == gid && t.oda[i].version == ver

/-- ODA table update (R221): an existing pair's AID is replaced, a new pair is appended while there is room. -/
def updateOda (gid : BitVec 4) (ver : Version) (aid : Word) (s : State) : State :=
  match s.rdsOda.find gid ver with
  | some i =>
    { s with rdsOda := { s.rdsOda with oda := s.rdsOda.oda.set i { s.rdsOda.oda[i] with aid := aid } } }.raiseIf .oda
      (s.rdsOda.oda[i].aid != aid)
  | none =>
    if h : s.rdsOda.size < Config.maxOda then
      { s with
        rdsOda := { size := s.rdsOda.size + 1, oda := s.rdsOda.oda.set s.rdsOda.size ⟨gid, ver, aid⟩ h }
        decodeInformation := s.decodeInformation ||| infoOda }.raise .oda
    else s

/-- TMC system staging (R223): the group is always staged, and decoded when it equals the one staged before. -/
def stageTmcSys (g : Group) (decode : State → State) (s : State) : State :=
  let staged := { s with prevTmcSysGroup := g }
  if g = s.prevTmcSysGroup then decode staged else staged

/-- The TMC system parameters published (R224, R225). -/
def setTmcSys (p : TmcSys) (s : State) : State := ({ s with tmcSys := p }.raiseIf .tmcSys (p != s.tmcSys)).validate .tmcSys

/-- TMC system variant 0 (R224). -/
def tmcSys0 (ltn : BitVec 6) (afi enhancedMode : Bool) (mgs : BitVec 4) (s : State) : State :=
  setTmcSys { s.tmcSys with ltn := ltn, afi := afi, enhancedMode := enhancedMode, mgs := mgs } s

/-- TMC system variant 1 (R225): the timing fields only in enhanced mode. -/
def tmcSys1 (gap : BitVec 2) (sid : BitVec 6) (tA tW tD : BitVec 2) (s : State) : State :=
  setTmcSys
    (if s.tmcSys.enhancedMode then { s.tmcSys with gap := gap, sid := sid, tA := tA, tW := tW, tD := tD }
     else { s.tmcSys with gap := gap, sid := sid }) s

/-- A 3A group (R220): the ODA row, then what the row adds. -/
def onGroup3A (g : Group) (tp : Bool) (pty : BitVec 5) (gid : BitVec 4) (ver : Version) (aid : Word) (next : State → State)
    (s : State) : Answer :=
  onGroup g tp pty (fun s => next (updateOda gid ver aid s)) s

/-- `G3A_TMC_SYS0` (R220 to R224). -/
def execG3ATmcSys0 (pi : Word) (tp : Bool) (pty : BitVec 5) (gid : BitVec 4) (ver : Version) (xC : BitVec 2) (ltn : BitVec 6)
    (afi enhancedMode : Bool) (mgs : BitVec 4) (aid : Word) (s : State) : Answer :=
  let g := groupRecord pi 3 .a (lowG3 gid ver) (blockC3v0 xC ltn afi enhancedMode mgs) aid
  onGroup3A g tp pty gid ver aid (stageTmcSys g (tmcSys0 ltn afi enhancedMode mgs)) s

/-- `G3A_TMC_SYS1` (R220 to R223, R225). -/
def execG3ATmcSys1 (pi : Word) (tp : Bool) (pty : BitVec 5) (gid : BitVec 4) (ver : Version) (gap : BitVec 2) (sid : BitVec 6)
    (tA tW tD : BitVec 2) (aid : Word) (s : State) : Answer :=
  let g := groupRecord pi 3 .a (lowG3 gid ver) (blockC3v1 gap sid tA tW tD) aid
  onGroup3A g tp pty gid ver aid (stageTmcSys g (tmcSys1 gap sid tA tW tD)) s

/-- `G3A_TMC_SYSX` (R220 to R223, R226): staged, not decoded. -/
def execG3ATmcSysX (pi : Word) (tp : Bool) (pty : BitVec 5) (gid : BitVec 4) (ver : Version) (variant : BitVec 2) (xC : BitVec 14)
    (aid : Word) (s : State) : Answer :=
  let g := groupRecord pi 3 .a (lowG3 gid ver) (variant ++ xC) aid
  onGroup3A g tp pty gid ver aid (stageTmcSys g id) s

/-- `G3A` with an AID that is not TMC's (R220, R221). -/
def execG3A (pi : Word) (tp : Bool) (pty : BitVec 5) (gid : BitVec 4) (ver : Version) (xC aid : Word) (s : State) : Answer :=
  onGroup3A (groupRecord pi 3 .a (lowG3 gid ver) xC aid) tp pty gid ver aid id s

end Sys2Proof.Machine
end

