-- ==== Sys2Proof/Machine/Group4.lean ====
section
/-! DEFINITION. Group type 4, clock-time and date (`46_group4_clock_time.md`). -/

namespace Sys2Proof.Machine

/-- Writing the public time (R247). -/
def setTime (t : CivilTime) (s : State) : State := ({ s with time := t }.raiseIf .time (t != s.time)).validate .time

/-- The received-twice rule on the MJD (R242): the MJD is always staged, and a group whose MJD was staged before is converted. -/
def observeMjd (mjd : BitVec 17) (t : CivilTime) (s : State) : State :=
  let staged := { s with newMjd := mjd }
  if mjd = s.newMjd then setTime t staged else staged

/-- `G4A` (R240 to R247). -/
def execG4A (pi : Word) (tp : Bool) (pty : BitVec 5) (xB : BitVec 3) (mjd : BitVec 17) (hour : BitVec 5) (minute : BitVec 6)
    (sign : Bool) (mag : BitVec 5) (s : State) : Answer :=
  onGroup (groupRecord pi 4 .a (lowG4 xB mjd) (blockC4 mjd hour) (blockD4 hour minute sign mag)) tp pty
    (observeMjd mjd (civilTime mjd hour minute sign mag)) s

end Sys2Proof.Machine
end

