-- ==== Sys2Proof/Machine/Group8.lean ====
section
/-! DEFINITION. Group type 8A, TMC user messages (`47_group8_tmc_user.md`). -/

namespace Sys2Proof.Machine

/-- The gate (R261): the same group twice in a row, with the sentinel `prev_tmc_armed`; a hit disarms and lets the group through. -/
def tmcGate (g : Group) (decode : State → State) (s : State) : State :=
  if s.prevTmcArmed = true ∧ g = s.prevTmcGroup then decode { s with prevTmcArmed := false }
  else { s with prevTmcGroup := g, prevTmcArmed := true }

/-- Publication of a single-group message (R264). -/
def publishSingle (p : TmcPending) (s : State) : State :=
  let msg : TmcMsg := ⟨p, Additional.zero⟩
  (({ s with tmcMsg := msg }.raiseIf .tmcSg (msg != s.tmcMsg)).validate .tmcSg).invalidate .tmcMg

/-- Publication of the assembled multi-group message (R270, R272). -/
def publishMulti (s : State) : State :=
  let msg : TmcMsg := ⟨s.newTmcMsg, unpack s.newTmcMsg.length.toNat s.optionalTmc⟩
  (({ s with tmcMsg := msg }.raiseIf .tmcMg (msg != s.tmcMsg)).validate .tmcMg).invalidate .tmcSg

/-- First group (R266): begins a pending message; FGI is `C[15]`, so `follow_diversion` is 1 (C4). -/
def startMulti (ci : BitVec 3) (p : TmcPending) (s : State) : State :=
  { s with newTmcMsg := p, continuityId := ci, grpSeqId := 0, optionalTmc := Vector.replicate _ 0 }

/-- Second group (R267). -/
def secondMulti (ci : BitVec 3) (gsi : BitVec 2) (window : BitVec 28) (s : State) : State :=
  if ci = s.continuityId then
    let s' := { s with
      grpSeqId := gsi
      optionalTmc := s.optionalTmc.set 0 (windowWord window)
      newTmcMsg := { s.newTmcMsg with length := 1 } }
    if gsi = 0 then publishMulti s' else s'
  else s

/-- Subsequent group (R268): accepted with the same continuity index, the next lower sequence value, and room. -/
def nextMulti (ci : BitVec 3) (gsi : BitVec 2) (window : BitVec 28) (s : State) : State :=
  if h : s.newTmcMsg.length.toNat < Config.tmcWindows then
    if ci = s.continuityId ∧ 1 ≤ s.grpSeqId.toNat ∧ gsi.toNat = s.grpSeqId.toNat - 1 then
      let s' := { s with
        optionalTmc := s.optionalTmc.set s.newTmcMsg.length.toNat (windowWord window) h
        newTmcMsg := { s.newTmcMsg with length := s.newTmcMsg.length + 1 }
        grpSeqId := gsi }
      if gsi = 0 then publishMulti s' else s'
    else s
  else s

/-- An 8A group (R260): the gate, then the form's decoder. -/
def onGroup8A (g : Group) (tp : Bool) (pty : BitVec 5) (decode : State → State) (s : State) : Answer :=
  onGroup g tp pty (tmcGate g decode) s

/-- `G8A_TI`, tuning information (R265): through the gate, nothing decoded. -/
def execG8ATi (pi : Word) (tp : Bool) (pty : BitVec 5) (sg : Bool) (x3 : BitVec 3) (xC xD : Word) (s : State) : Answer :=
  onGroup8A (groupRecord pi 8 .a (lowG8 sg true x3) xC xD) tp pty id s

/-- `G8A_SG`, single group (R264). -/
def execG8ASg (pi : Word) (tp : Bool) (pty : BitVec 5) (dp : BitVec 3) (div dir : Bool) (extent : BitVec 3) (event : BitVec 11)
    (loc : Word) (s : State) : Answer :=
  onGroup8A (groupRecord pi 8 .a (lowG8 true false dp) (blockC8 div dir extent event) loc) tp pty
    (publishSingle (tmcPrimary dp div dir extent event loc)) s

/-- `G8A_MG1`, first group (R266). -/
def execG8AMg1 (pi : Word) (tp : Bool) (pty : BitVec 5) (ci : BitVec 3) (dir : Bool) (extent : BitVec 3) (event : BitVec 11)
    (loc : Word) (s : State) : Answer :=
  onGroup8A (groupRecord pi 8 .a (lowG8 false false ci) (blockC8 true dir extent event) loc) tp pty
    (startMulti ci (tmcPrimary 0 true dir extent event loc)) s

/-- `G8A_MG2`, second group (R267). -/
def execG8AMg2 (pi : Word) (tp : Bool) (pty : BitVec 5) (ci : BitVec 3) (gsi : BitVec 2) (window : BitVec 28) (s : State) :
    Answer :=
  onGroup8A (groupRecord pi 8 .a (lowG8 false false ci) (blockC8w true gsi window) (window.extractLsb' 0 16)) tp pty
    (secondMulti ci gsi window) s

/-- `G8A_MGN`, subsequent group (R268). -/
def execG8AMgn (pi : Word) (tp : Bool) (pty : BitVec 5) (ci : BitVec 3) (gsi : BitVec 2) (window : BitVec 28) (s : State) :
    Answer :=
  onGroup8A (groupRecord pi 8 .a (lowG8 false false ci) (blockC8w false gsi window) (window.extractLsb' 0 16)) tp pty
    (nextMulti ci gsi window) s

end Sys2Proof.Machine
end

