-- ==== Sys2Proof/Machine/GroupIgnored.lean ====
section
/-! DEFINITION. The groups without a decoder (R100, R148): the common extractors run, the group is counted, and nothing else happens.
One definition each. -/

namespace Sys2Proof.Machine

/-- An ignored group (R100). -/
def ignoredGroup (pi : Word) (gid : BitVec 4) (ver : Version) (tp : Bool) (pty xB : BitVec 5) (xC xD : Word) (s : State) : Answer :=
  onGroup (groupRecord pi gid ver xB xC xD) tp pty id s

/-- `G1B`, ignored (R100, R148). -/
def execG1B (pi : Word) (tp : Bool) (pty xB : BitVec 5) (xC xD : Word) (s : State) : Answer :=
  ignoredGroup pi 1 .b tp pty xB xC xD s

/-- `G3B`, ignored (R100, R148). -/
def execG3B (pi : Word) (tp : Bool) (pty xB : BitVec 5) (xC xD : Word) (s : State) : Answer :=
  ignoredGroup pi 3 .b tp pty xB xC xD s

/-- `G4B`, ignored (R100, R148). -/
def execG4B (pi : Word) (tp : Bool) (pty xB : BitVec 5) (xC xD : Word) (s : State) : Answer :=
  ignoredGroup pi 4 .b tp pty xB xC xD s

/-- `G5`, both versions ignored (R100, R148). -/
def execG5 (pi : Word) (version : Version) (tp : Bool) (pty xB : BitVec 5) (xC xD : Word) (s : State) : Answer :=
  ignoredGroup pi 5 version tp pty xB xC xD s

/-- `G6`, both versions ignored (R100, R148). -/
def execG6 (pi : Word) (version : Version) (tp : Bool) (pty xB : BitVec 5) (xC xD : Word) (s : State) : Answer :=
  ignoredGroup pi 6 version tp pty xB xC xD s

/-- `G7`, both versions ignored (R100, R148). -/
def execG7 (pi : Word) (version : Version) (tp : Bool) (pty xB : BitVec 5) (xC xD : Word) (s : State) : Answer :=
  ignoredGroup pi 7 version tp pty xB xC xD s

/-- `G8B`, ignored (R100, R148). -/
def execG8B (pi : Word) (tp : Bool) (pty xB : BitVec 5) (xC xD : Word) (s : State) : Answer :=
  ignoredGroup pi 8 .b tp pty xB xC xD s

/-- `G9`, both versions ignored (R100, R148). -/
def execG9 (pi : Word) (version : Version) (tp : Bool) (pty xB : BitVec 5) (xC xD : Word) (s : State) : Answer :=
  ignoredGroup pi 9 version tp pty xB xC xD s

/-- `G10B`, ignored (R100, R148). -/
def execG10B (pi : Word) (tp : Bool) (pty xB : BitVec 5) (xC xD : Word) (s : State) : Answer :=
  ignoredGroup pi 10 .b tp pty xB xC xD s

/-- `G11`, both versions ignored (R100, R148). -/
def execG11 (pi : Word) (version : Version) (tp : Bool) (pty xB : BitVec 5) (xC xD : Word) (s : State) : Answer :=
  ignoredGroup pi 11 version tp pty xB xC xD s

/-- `G12`, both versions ignored (R100, R148). -/
def execG12 (pi : Word) (version : Version) (tp : Bool) (pty xB : BitVec 5) (xC xD : Word) (s : State) : Answer :=
  ignoredGroup pi 12 version tp pty xB xC xD s

/-- `G13`, both versions ignored (R100, R148). -/
def execG13 (pi : Word) (version : Version) (tp : Bool) (pty xB : BitVec 5) (xC xD : Word) (s : State) : Answer :=
  ignoredGroup pi 13 version tp pty xB xC xD s

/-- `G14`, both versions ignored (R100, R148). -/
def execG14 (pi : Word) (version : Version) (tp : Bool) (pty xB : BitVec 5) (xC xD : Word) (s : State) : Answer :=
  ignoredGroup pi 14 version tp pty xB xC xD s

/-- `G15`, both versions ignored (R100, R148). -/
def execG15 (pi : Word) (version : Version) (tp : Bool) (pty xB : BitVec 5) (xC xD : Word) (s : State) : Answer :=
  ignoredGroup pi 15 version tp pty xB xC xD s

end Sys2Proof.Machine
end

