-- ==== Sys2Proof/Machine/Blocks.lean ====
section
/-! DEFINITION. The block assembler, the RAWBLOCK rows (`40_block_assembler.md` R120 to R129): the counters at entry, then the transition
of the block's label, and the decode of the group a block D completes. -/

namespace Sys2Proof.Machine

/-- The group decode's dispatch (R99, R148): the meaning of the GROUP row the four payloads decode to. -/
def runGroup (i : Instr) (h : i.isGroup = true) (s : State) : Answer :=
  match i, h with
  | .g0a pi tp pty ta ms dibit seg af1 af2 c0 c1, _ => execG0A pi tp pty ta ms dibit seg af1 af2 c0 c1 s
  | .g0b pi tp pty ta ms dibit seg xC c0 c1, _ => execG0B pi tp pty ta ms dibit seg xC c0 c1 s
  | .g1aEcc pi tp pty xB xC15 xC ecc xD, _ => execG1AEcc pi tp pty xB xC15 xC ecc xD s
  | .g1aLc pi tp pty xB xC15 xC lc xD, _ => execG1ALc pi tp pty xB xC15 xC lc xD s
  | .g1aV1 pi tp pty xB xC15 xC xD, _ => execG1AV1 pi tp pty xB xC15 xC xD s
  | .g1aV2 pi tp pty xB xC15 xC xD, _ => execG1AV2 pi tp pty xB xC15 xC xD s
  | .g1aV4_7 pi tp pty xB xC15 variant xC xD, _ => execG1AV4to7 pi tp pty xB xC15 variant xC xD s
  | .g1b pi tp pty xB xC xD, _ => execG1B pi tp pty xB xC xD s
  | .g2a pi tp pty ab seg c0 c1 c2 c3, _ => execG2A pi tp pty ab seg c0 c1 c2 c3 s
  | .g2b pi tp pty ab seg xC c0 c1, _ => execG2B pi tp pty ab seg xC c0 c1 s
  | .g3aTmcSys0 pi tp pty gid ver xC ltn afi enhancedMode mgs aid, _ => execG3ATmcSys0 pi tp pty gid ver xC ltn afi enhancedMode mgs aid s
  | .g3aTmcSys1 pi tp pty gid ver gap sid tA tW tD aid, _ => execG3ATmcSys1 pi tp pty gid ver gap sid tA tW tD aid s
  | .g3aTmcSysX pi tp pty gid ver variant xC aid, _ => execG3ATmcSysX pi tp pty gid ver variant xC aid s
  | .g3a pi tp pty gid ver xC aid, _ => execG3A pi tp pty gid ver xC aid s
  | .g3b pi tp pty xB xC xD, _ => execG3B pi tp pty xB xC xD s
  | .g4a pi tp pty xB mjd hour minute sign mag, _ => execG4A pi tp pty xB mjd hour minute sign mag s
  | .g4b pi tp pty xB xC xD, _ => execG4B pi tp pty xB xC xD s
  | .g5 pi version tp pty xB xC xD, _ => execG5 pi version tp pty xB xC xD s
  | .g6 pi version tp pty xB xC xD, _ => execG6 pi version tp pty xB xC xD s
  | .g7 pi version tp pty xB xC xD, _ => execG7 pi version tp pty xB xC xD s
  | .g8aTi pi tp pty sg x3 xC xD, _ => execG8ATi pi tp pty sg x3 xC xD s
  | .g8aSg pi tp pty dp div dir extent event loc, _ => execG8ASg pi tp pty dp div dir extent event loc s
  | .g8aMg1 pi tp pty ci dir extent event loc, _ => execG8AMg1 pi tp pty ci dir extent event loc s
  | .g8aMg2 pi tp pty ci gsi window, _ => execG8AMg2 pi tp pty ci gsi window s
  | .g8aMgn pi tp pty ci gsi window, _ => execG8AMgn pi tp pty ci gsi window s
  | .g8b pi tp pty xB xC xD, _ => execG8B pi tp pty xB xC xD s
  | .g9 pi version tp pty xB xC xD, _ => execG9 pi version tp pty xB xC xD s
  | .g10a pi tp pty ab xB seg c0 c1 c2 c3, _ => execG10A pi tp pty ab xB seg c0 c1 c2 c3 s
  | .g10b pi tp pty xB xC xD, _ => execG10B pi tp pty xB xC xD s
  | .g11 pi version tp pty xB xC xD, _ => execG11 pi version tp pty xB xC xD s
  | .g12 pi version tp pty xB xC xD, _ => execG12 pi version tp pty xB xC xD s
  | .g13 pi version tp pty xB xC xD, _ => execG13 pi version tp pty xB xC xD s
  | .g14 pi version tp pty xB xC xD, _ => execG14 pi version tp pty xB xC xD s
  | .g15 pi version tp pty xB xC xD, _ => execG15 pi version tp pty xB xC xD s
  | .blkErr .., h => nomatch h
  | .blkA .., h => nomatch h
  | .blkB .., h => nomatch h
  | .blkC .., h => nomatch h
  | .blkD .., h => nomatch h
  | .blkCp .., h => nomatch h
  | .blkX5 .., h => nomatch h
  | .blkX6 .., h => nomatch h
  | .blkX7 .., h => nomatch h
  | .create .., h => nomatch h
  | .destroy, h => nomatch h
  | .reset .., h => nomatch h
  | .add .., h => nomatch h
  | .getGroup, h => nomatch h
  | .read .., h => nomatch h
  | .lookupIndex, h => nomatch h

/-- Entry of `add` for a block with those flags (R121): the ports cleared, the block counted. -/
def enterBlock (error corrected : Bool) (s : State) : State := countBlock error corrected s.clearOutputs

/-- The four payloads in the accumulator (R140). -/
def State.rawGroup (s : State) : GroupBlocks :=
  ⟨s.rdsDataRaw[0].data, s.rdsDataRaw[1].data, s.rdsDataRaw[2].data, s.rdsDataRaw[3].data⟩

/-- A block labelled A (R123, R127): stored in Empty after the accumulator is cleared, a group error elsewhere. -/
def takeA (r : RawBlock) (s : State) : State :=
  match s.decodeState with
  | .empty => { s with rdsDataRaw := (Vector.replicate _ ⟨0, 0⟩).set 0 r, decodeState := .aReceived }
  | .aReceived | .bReceived | .cReceived => groupError s

/-- A block labelled B (R124, R127). -/
def takeB (r : RawBlock) (s : State) : State :=
  match s.decodeState with
  | .aReceived => { s with rdsDataRaw := s.rdsDataRaw.set 1 r, decodeState := .bReceived }
  | .empty | .bReceived | .cReceived => groupError s

/-- A block labelled C or C' (R125, R127, R129). -/
def takeC (r : RawBlock) (s : State) : State :=
  match s.decodeState with
  | .bReceived => { s with rdsDataRaw := s.rdsDataRaw.set 2 r, decodeState := .cReceived }
  | .empty | .aReceived | .cReceived => groupError s

/-- The fourth block stored and the group counted (R126), before the group decode. -/
def storeD (r : RawBlock) (s : State) : State :=
  { s with
    rdsDataRaw := s.rdsDataRaw.set 3 r
    decodeState := .empty
    stats := { s.stats with groupCnt := count s.stats.groupCnt } }

/-- A block labelled D (R126, R127): completes the group and decodes it, a group error outside CReceived. -/
def takeD (r : RawBlock) (s : State) : Answer :=
  match s.decodeState with
  | .cReceived => runGroup (decodeGroup (storeD r s).rawGroup) (decodeGroup_isGroup _) (storeD r s)
  | .empty | .aReceived | .bReceived => whenCreated s groupError

/-- `BLK_ERR` (R121, R122, R127): a block error and a group error, in every state. -/
def execBlkErr (corrected : Bool) (_unused _label : BitVec 3) (_data : Word) (s : State) : Answer :=
  whenCreated s fun s => groupError (enterBlock true corrected s)

/-- `BLK_A` (R121, R123, R127). -/
def execBlkA (corrected : Bool) (unused : BitVec 3) (data : Word) (s : State) : Answer :=
  whenCreated s fun s => takeA ⟨data, ctrlByte false corrected unused 0⟩ (enterBlock false corrected s)

/-- `BLK_B` (R121, R124, R127). -/
def execBlkB (corrected : Bool) (unused : BitVec 3) (data : Word) (s : State) : Answer :=
  whenCreated s fun s => takeB ⟨data, ctrlByte false corrected unused 1⟩ (enterBlock false corrected s)

/-- `BLK_C` (R121, R125, R127). -/
def execBlkC (corrected : Bool) (unused : BitVec 3) (data : Word) (s : State) : Answer :=
  whenCreated s fun s => takeC ⟨data, ctrlByte false corrected unused 2⟩ (enterBlock false corrected s)

/-- `BLK_D` (R121, R126, R127, R140). -/
def execBlkD (corrected : Bool) (unused : BitVec 3) (data : Word) (s : State) : Answer :=
  takeD ⟨data, ctrlByte false corrected unused 3⟩ (enterBlock false corrected s)

/-- `BLK_Cp`, label C', treated as C (R82, R121, R125, R127, R129). -/
def execBlkCp (corrected : Bool) (unused : BitVec 3) (data : Word) (s : State) : Answer :=
  whenCreated s fun s => takeC ⟨data, ctrlByte false corrected unused 4⟩ (enterBlock false corrected s)

/-- `BLK_X5`, a code that names no label (R82, R122, R127): a group error in every state, no block error. -/
def execBlkX5 (corrected : Bool) (_unused : BitVec 3) (_data : Word) (s : State) : Answer :=
  whenCreated s fun s => groupError (enterBlock false corrected s)

/-- `BLK_X6`, a code that names no label (R82, R122, R127): a group error in every state, no block error. -/
def execBlkX6 (corrected : Bool) (_unused : BitVec 3) (_data : Word) (s : State) : Answer :=
  whenCreated s fun s => groupError (enterBlock false corrected s)

/-- `BLK_X7`, a code that names no label (R82, R122, R127): a group error in every state, no block error. -/
def execBlkX7 (corrected : Bool) (_unused : BitVec 3) (_data : Word) (s : State) : Answer :=
  whenCreated s fun s => groupError (enterBlock false corrected s)

end Sys2Proof.Machine
end

