-- ==== Sys2Proof/Machine/HostOps.lean ====
section
/-! DEFINITION. The host operations, the HOSTOP rows (`49_host_ops.md` R310 to R319). -/

namespace Sys2Proof.Machine

/-- The meaning of the RAWBLOCK row the argument of `add` decodes to (R120, R314). -/
def runBlock (i : Instr) (h : i.isBlock = true) (s : State) : Answer :=
  match i, h with
  | .blkErr corrected unused label data, _ => execBlkErr corrected unused label data s
  | .blkA corrected unused data, _ => execBlkA corrected unused data s
  | .blkB corrected unused data, _ => execBlkB corrected unused data s
  | .blkC corrected unused data, _ => execBlkC corrected unused data s
  | .blkD corrected unused data, _ => execBlkD corrected unused data s
  | .blkCp corrected unused data, _ => execBlkCp corrected unused data s
  | .blkX5 corrected unused data, _ => execBlkX5 corrected unused data s
  | .blkX6 corrected unused data, _ => execBlkX6 corrected unused data s
  | .blkX7 corrected unused data, _ => execBlkX7 corrected unused data s
  | .g0a .., h => nomatch h
  | .g0b .., h => nomatch h
  | .g1aEcc .., h => nomatch h
  | .g1aLc .., h => nomatch h
  | .g1aV1 .., h => nomatch h
  | .g1aV2 .., h => nomatch h
  | .g1aV4_7 .., h => nomatch h
  | .g1b .., h => nomatch h
  | .g2a .., h => nomatch h
  | .g2b .., h => nomatch h
  | .g3aTmcSys0 .., h => nomatch h
  | .g3aTmcSys1 .., h => nomatch h
  | .g3aTmcSysX .., h => nomatch h
  | .g3a .., h => nomatch h
  | .g3b .., h => nomatch h
  | .g4a .., h => nomatch h
  | .g4b .., h => nomatch h
  | .g5 .., h => nomatch h
  | .g6 .., h => nomatch h
  | .g7 .., h => nomatch h
  | .g8aTi .., h => nomatch h
  | .g8aSg .., h => nomatch h
  | .g8aMg1 .., h => nomatch h
  | .g8aMg2 .., h => nomatch h
  | .g8aMgn .., h => nomatch h
  | .g8b .., h => nomatch h
  | .g9 .., h => nomatch h
  | .g10a .., h => nomatch h
  | .g10b .., h => nomatch h
  | .g11 .., h => nomatch h
  | .g12 .., h => nomatch h
  | .g13 .., h => nomatch h
  | .g14 .., h => nomatch h
  | .g15 .., h => nomatch h
  | .create .., h => nomatch h
  | .destroy, h => nomatch h
  | .reset .., h => nomatch h
  | .add .., h => nomatch h
  | .getGroup, h => nomatch h
  | .read .., h => nomatch h
  | .lookupIndex, h => nomatch h

/-- Return a value to an observer: no register changes (R68, R315; log 3). -/
def State.answer (v : ReadValue) (s : State) : State := { s.clearOutputs with readOut := some v }

/-- `CREATE` (R311, R361): the power-on reset, with the configuration bit given. It runs with or without an instance (log 5). -/
def execCreate (isRbds : Bool) (s : State) : Answer := .next (State.cleared isRbds Statistics.zero s.pending)

/-- `DESTROY` (R312): ends the instance; no register changes (log 5). -/
def execDestroy (s : State) : Answer := whenCreated s fun s => { s.clearOutputs with created := false }

/-- `RESET` (R313, R361): every register cleared, the configuration bit kept, and the statistics kept if asked. -/
def execReset (preserveStats : Bool) (s : State) : Answer :=
  whenCreated s fun s => State.cleared s.isRbds (if preserveStats then s.stats else Statistics.zero) s.pending

/-- `ADD` (R314, R120): the RAWBLOCK row of its argument. -/
def execAdd (data : Word) (block : Byte) (s : State) : Answer :=
  runBlock (decodeBlock ⟨data, block⟩) (decodeBlock_isBlock _) s

/-- `GET_GROUP` (R316): the record of the last completed group. -/
def execGetGroup (s : State) : Answer := whenCreated s fun s => s.answer (.group s.rdsGroup)

/-- `READ` of a public register (R315). -/
def execRead (reg : PublicReg) (s : State) : Answer := whenCreated s fun s => s.answer (s.readReg reg)

/-- `LOOKUP_INDEX` (R318): the four indices and their in-range flags. -/
def execLookupIndex (s : State) : Answer := whenCreated s fun s => s.answer (.indices s.lookupIndices)

end Sys2Proof.Machine
end

