-- ==== Sys2Proof/Machine/Dispatch.lean ====
section
/-! DEFINITION. The dispatch: one arm per constructor of `Instr`, each one direct call of its meaning. -/

namespace Sys2Proof.Machine

def exec (i : Instr) (s : State) : Host.Outcome State Fault Refusal :=
  match i with
  | .g0a pi tp pty ta ms dibit seg af1 af2 c0 c1 => Sys2Proof.Machine.execG0A pi tp pty ta ms dibit seg af1 af2 c0 c1 s
  | .g0b pi tp pty ta ms dibit seg xC c0 c1 => Sys2Proof.Machine.execG0B pi tp pty ta ms dibit seg xC c0 c1 s
  | .g1aEcc pi tp pty xB xC15 xC ecc xD => Sys2Proof.Machine.execG1AEcc pi tp pty xB xC15 xC ecc xD s
  | .g1aLc pi tp pty xB xC15 xC lc xD => Sys2Proof.Machine.execG1ALc pi tp pty xB xC15 xC lc xD s
  | .g1aV1 pi tp pty xB xC15 xC xD => Sys2Proof.Machine.execG1AV1 pi tp pty xB xC15 xC xD s
  | .g1aV2 pi tp pty xB xC15 xC xD => Sys2Proof.Machine.execG1AV2 pi tp pty xB xC15 xC xD s
  | .g1aV4_7 pi tp pty xB xC15 variant xC xD => Sys2Proof.Machine.execG1AV4to7 pi tp pty xB xC15 variant xC xD s
  | .g1b pi tp pty xB xC xD => Sys2Proof.Machine.execG1B pi tp pty xB xC xD s
  | .g2a pi tp pty ab seg c0 c1 c2 c3 => Sys2Proof.Machine.execG2A pi tp pty ab seg c0 c1 c2 c3 s
  | .g2b pi tp pty ab seg xC c0 c1 => Sys2Proof.Machine.execG2B pi tp pty ab seg xC c0 c1 s
  | .g3aTmcSys0 pi tp pty gid ver xC ltn afi enhancedMode mgs aid => Sys2Proof.Machine.execG3ATmcSys0 pi tp pty gid ver xC ltn afi enhancedMode mgs aid s
  | .g3aTmcSys1 pi tp pty gid ver gap sid tA tW tD aid => Sys2Proof.Machine.execG3ATmcSys1 pi tp pty gid ver gap sid tA tW tD aid s
  | .g3aTmcSysX pi tp pty gid ver variant xC aid => Sys2Proof.Machine.execG3ATmcSysX pi tp pty gid ver variant xC aid s
  | .g3a pi tp pty gid ver xC aid => Sys2Proof.Machine.execG3A pi tp pty gid ver xC aid s
  | .g3b pi tp pty xB xC xD => Sys2Proof.Machine.execG3B pi tp pty xB xC xD s
  | .g4a pi tp pty xB mjd hour minute sign mag => Sys2Proof.Machine.execG4A pi tp pty xB mjd hour minute sign mag s
  | .g4b pi tp pty xB xC xD => Sys2Proof.Machine.execG4B pi tp pty xB xC xD s
  | .g5 pi version tp pty xB xC xD => Sys2Proof.Machine.execG5 pi version tp pty xB xC xD s
  | .g6 pi version tp pty xB xC xD => Sys2Proof.Machine.execG6 pi version tp pty xB xC xD s
  | .g7 pi version tp pty xB xC xD => Sys2Proof.Machine.execG7 pi version tp pty xB xC xD s
  | .g8aTi pi tp pty sg x3 xC xD => Sys2Proof.Machine.execG8ATi pi tp pty sg x3 xC xD s
  | .g8aSg pi tp pty dp div dir extent event loc => Sys2Proof.Machine.execG8ASg pi tp pty dp div dir extent event loc s
  | .g8aMg1 pi tp pty ci dir extent event loc => Sys2Proof.Machine.execG8AMg1 pi tp pty ci dir extent event loc s
  | .g8aMg2 pi tp pty ci gsi window => Sys2Proof.Machine.execG8AMg2 pi tp pty ci gsi window s
  | .g8aMgn pi tp pty ci gsi window => Sys2Proof.Machine.execG8AMgn pi tp pty ci gsi window s
  | .g8b pi tp pty xB xC xD => Sys2Proof.Machine.execG8B pi tp pty xB xC xD s
  | .g9 pi version tp pty xB xC xD => Sys2Proof.Machine.execG9 pi version tp pty xB xC xD s
  | .g10a pi tp pty ab xB seg c0 c1 c2 c3 => Sys2Proof.Machine.execG10A pi tp pty ab xB seg c0 c1 c2 c3 s
  | .g10b pi tp pty xB xC xD => Sys2Proof.Machine.execG10B pi tp pty xB xC xD s
  | .g11 pi version tp pty xB xC xD => Sys2Proof.Machine.execG11 pi version tp pty xB xC xD s
  | .g12 pi version tp pty xB xC xD => Sys2Proof.Machine.execG12 pi version tp pty xB xC xD s
  | .g13 pi version tp pty xB xC xD => Sys2Proof.Machine.execG13 pi version tp pty xB xC xD s
  | .g14 pi version tp pty xB xC xD => Sys2Proof.Machine.execG14 pi version tp pty xB xC xD s
  | .g15 pi version tp pty xB xC xD => Sys2Proof.Machine.execG15 pi version tp pty xB xC xD s
  | .blkErr corrected unused label data => Sys2Proof.Machine.execBlkErr corrected unused label data s
  | .blkA corrected unused data => Sys2Proof.Machine.execBlkA corrected unused data s
  | .blkB corrected unused data => Sys2Proof.Machine.execBlkB corrected unused data s
  | .blkC corrected unused data => Sys2Proof.Machine.execBlkC corrected unused data s
  | .blkD corrected unused data => Sys2Proof.Machine.execBlkD corrected unused data s
  | .blkCp corrected unused data => Sys2Proof.Machine.execBlkCp corrected unused data s
  | .blkX5 corrected unused data => Sys2Proof.Machine.execBlkX5 corrected unused data s
  | .blkX6 corrected unused data => Sys2Proof.Machine.execBlkX6 corrected unused data s
  | .blkX7 corrected unused data => Sys2Proof.Machine.execBlkX7 corrected unused data s
  | .create isRbds => Sys2Proof.Machine.execCreate isRbds s
  | .destroy => Sys2Proof.Machine.execDestroy s
  | .reset preserveStats => Sys2Proof.Machine.execReset preserveStats s
  | .add data block => Sys2Proof.Machine.execAdd data block s
  | .getGroup => Sys2Proof.Machine.execGetGroup s
  | .read reg => Sys2Proof.Machine.execRead reg s
  | .lookupIndex => Sys2Proof.Machine.execLookupIndex s

end Sys2Proof.Machine
end

