-- ==== Sys2Proof/Machine/Step.lean ====
section
/-! DEFINITION. One step: the next host operation of the input, decoded and run as one atomic operation (R13, R70); and the placing of
a table row's word where the step takes its next operation from (log 7). -/

namespace Sys2Proof.Machine

/-- One step (R13): take the next operation (R47), decode it, run it. With no operation the registers are held (R344; log 4). -/
def step (s : State) : Host.Outcome State Fault Refusal :=
  match fetchOp s with
  | none => .next (idle s)
  | some (op, s') => exec (decodeOp op) s'

/-- Place a table row's word where the next step takes its instruction from (log 7): a RawBlock word as the argument of the next
`add`; a group word as the three blocks already assembled and block D as the argument of the next `add`. -/
def State.withFetchWord (s : State) (nbits w : Nat) : State :=
  if nbits = 0 then s
  else if nbits ≤ 24 then
    let r := RawBlock.ofWord (BitVec.ofNat 24 (w % 2 ^ nbits))
    s.pushOp (.blkStb r.data r.block)
  else s.stageGroup (GroupBlocks.ofWord (BitVec.ofNat 64 (w % 2 ^ nbits)))

end Sys2Proof.Machine
end

