-- ==== Sys2Proof/WellFormed.lean ====
section
/-! DEFINITION. The checks an instruction's operands must pass to be a row's instruction: what the table's match and mask fix beyond
the widths of the fields (R105). -/

namespace Sys2Proof

/-- The two Application-IDs that indicate TMC (R222). -/
def isTmcAid (aid : Word) : Bool := aid == Config.tmcAid0 || aid == Config.tmcAid1

/-- The checks of R105's first-match rule for group 3A, of the variants of G1A_V4_7 (R190) and of G3A_TMC_SYSX (R226). Every other
constructor's operands are free. -/
def Instr.wellFormed : Instr → Bool
  | .g1aV4_7 _ _ _ _ _ variant _ _ => decide (4#3 ≤ variant)
  | .g3aTmcSys0 _ _ _ _ _ _ _ _ _ _ aid => isTmcAid aid
  | .g3aTmcSys1 _ _ _ _ _ _ _ _ _ _ aid => isTmcAid aid
  | .g3aTmcSysX _ _ _ _ _ variant _ aid => decide (2#2 ≤ variant) && isTmcAid aid
  | .g3a _ _ _ _ _ _ aid => !isTmcAid aid
  | .g0a .. | .g0b .. | .g1aEcc .. | .g1aLc .. | .g1aV1 .. | .g1aV2 .. | .g1b .. | .g2a .. | .g2b .. | .g3b .. | .g4a .. | .g4b ..
  | .g5 .. | .g6 .. | .g7 .. | .g8aTi .. | .g8aSg .. | .g8aMg1 .. | .g8aMg2 .. | .g8aMgn .. | .g8b .. | .g9 .. | .g10a .. | .g10b ..
  | .g11 .. | .g12 .. | .g13 .. | .g14 .. | .g15 .. => true
  | .blkErr .. | .blkA .. | .blkB .. | .blkC .. | .blkD .. | .blkCp .. | .blkX5 .. | .blkX6 .. | .blkX7 .. => true
  | .create .. | .destroy | .reset .. | .add .. | .getGroup | .read .. | .lookupIndex => true

end Sys2Proof
end

