-- ==== Sys2Proof/Safety.lean ====
section
/-! DEFINITION. The terms the claims are written in: the components of the state and what a step leaves untouched, the bits of the two
flag words, the public values the bits stand for (R31), the invariant of the machine (R46, R128, R269 and the ranges of `10_state.md`),
and the spec's rules said a second time in the terms of the bits of a group (lists, numbers, rationals), for the claims to compare the
machine with. -/

namespace Sys2Proof.Machine

/-! ### Frames -/

/-- The components of the state, one per field of `State`. -/
inductive Component where
  | pi | pty | tp | ta | ms | di | ecc | lc | rtAbFlag | ptynAbFlag | ps | rt | rtLength | ptyn | rdsAf | rdsOda | time
  | tmcSys | tmcMsg | stats | validFields | decodeInformation | rdsGroup | isRbds | decodeState | rdsDataRaw | newPi | newPty
  | newEcc | newLc | newMjd | newPs | newPsValid | newPtyn | newPtynValid | newDi | nextDiSegment | newRt | nextRtSegment
  | prevTmcGroup | prevTmcSysGroup | prevTmcArmed | newTmcMsg | optionalTmc | continuityId | grpSeqId | updMask | readOut
  | pending | created
  deriving DecidableEq, Repr

/-- The component has the same value in both states. -/
def Component.same (c : Component) (s t : State) : Prop :=
  match c with
  | .pi => s.pi = t.pi | .pty => s.pty = t.pty | .tp => s.tp = t.tp | .ta => s.ta = t.ta | .ms => s.ms = t.ms
  | .di => s.di = t.di | .ecc => s.ecc = t.ecc | .lc => s.lc = t.lc | .rtAbFlag => s.rtAbFlag = t.rtAbFlag
  | .ptynAbFlag => s.ptynAbFlag = t.ptynAbFlag | .ps => s.ps = t.ps | .rt => s.rt = t.rt | .rtLength => s.rtLength = t.rtLength
  | .ptyn => s.ptyn = t.ptyn | .rdsAf => s.rdsAf = t.rdsAf | .rdsOda => s.rdsOda = t.rdsOda | .time => s.time = t.time
  | .tmcSys => s.tmcSys = t.tmcSys | .tmcMsg => s.tmcMsg = t.tmcMsg | .stats => s.stats = t.stats
  | .validFields => s.validFields = t.validFields | .decodeInformation => s.decodeInformation = t.decodeInformation
  | .rdsGroup => s.rdsGroup = t.rdsGroup | .isRbds => s.isRbds = t.isRbds | .decodeState => s.decodeState = t.decodeState
  | .rdsDataRaw => s.rdsDataRaw = t.rdsDataRaw | .newPi => s.newPi = t.newPi | .newPty => s.newPty = t.newPty
  | .newEcc => s.newEcc = t.newEcc | .newLc => s.newLc = t.newLc | .newMjd => s.newMjd = t.newMjd | .newPs => s.newPs = t.newPs
  | .newPsValid => s.newPsValid = t.newPsValid | .newPtyn => s.newPtyn = t.newPtyn
  | .newPtynValid => s.newPtynValid = t.newPtynValid | .newDi => s.newDi = t.newDi
  | .nextDiSegment => s.nextDiSegment = t.nextDiSegment | .newRt => s.newRt = t.newRt
  | .nextRtSegment => s.nextRtSegment = t.nextRtSegment | .prevTmcGroup => s.prevTmcGroup = t.prevTmcGroup
  | .prevTmcSysGroup => s.prevTmcSysGroup = t.prevTmcSysGroup | .prevTmcArmed => s.prevTmcArmed = t.prevTmcArmed
  | .newTmcMsg => s.newTmcMsg = t.newTmcMsg | .optionalTmc => s.optionalTmc = t.optionalTmc
  | .continuityId => s.continuityId = t.continuityId | .grpSeqId => s.grpSeqId = t.grpSeqId | .updMask => s.updMask = t.updMask
  | .readOut => s.readOut = t.readOut | .pending => s.pending = t.pending | .created => s.created = t.created

/-- Every component that is not listed is unchanged. -/
def Untouched (touched : List Component) (s t : State) : Prop := ∀ c, c ∉ touched → c.same s t

/-- What the common extractors of a completed group write (R140 to R147), with the output ports. -/
def commonTouched : List Component := [.pi, .newPi, .pty, .newPty, .tp, .rdsGroup, .stats, .validFields, .updMask, .readOut]

/-! ### Flags -/

/-- The bit of `valid_fields` (R32). -/
def State.isValid (s : State) (f : Field) : Bool := s.validFields.getLsbD f.pos

/-- The bit of the update mask (R31). -/
def State.raised (s : State) (f : Field) : Bool := s.updMask.getLsbD f.pos

/-- Every bit of `valid_fields` but the listed ones is unchanged, and every bit of the mask but the listed ones is 0. -/
def OtherBitsKept (fs : List Field) (s t : State) : Prop :=
  ∀ k : Nat, (∀ f ∈ fs, f.pos ≠ k) → t.validFields.getLsbD k = s.validFields.getLsbD k ∧ t.updMask.getLsbD k = false

/-- The bits the common extractors may set (R142, R144, R145). -/
def commonBits : List Field := [.pi, .pty, .tp]

/-- The frame of a group: beyond what every group touches, the registers and the bits named. -/
def GroupFrame (cs : List Component) (fs : List Field) (s t : State) : Prop :=
  Untouched (commonTouched ++ cs) s t ∧ OtherBitsKept (commonBits ++ fs) s t

/-! ### The public values the mask bits stand for (R31) -/

/-- The meaningful entries of the alternative-frequency set (R25). -/
def AfSet.entries (a : AfSet) : List (BitVec 32) := a.af.toList.take a.size.toNat

/-- The meaningful rows of the open-data-application table (R26). -/
def OdaTable.rows (t : OdaTable) : List OdaRow := t.oda.toList.take t.size

/-- The public value of a mask bit has the same value in both states (the table of R31). -/
def Field.sameValue (f : Field) (s t : State) : Prop :=
  match f with
  | .pi => s.pi = t.pi
  | .pty => s.pty = t.pty
  | .ps => s.ps = t.ps
  | .rt => s.rt = t.rt ∧ s.rtLength = t.rtLength ∧ s.rtAbFlag = t.rtAbFlag
  | .tp => s.tp = t.tp
  | .ta => s.ta = t.ta
  | .ms => s.ms = t.ms
  | .di => s.di = t.di
  | .af => s.rdsAf.announcedAf = t.rdsAf.announcedAf ∧ s.rdsAf.entries = t.rdsAf.entries
  | .ecc => s.ecc = t.ecc
  | .lc => s.lc = t.lc
  | .time => s.time = t.time
  | .tmcSg | .tmcMg => s.tmcMsg = t.tmcMsg
  | .tmcSys => s.tmcSys = t.tmcSys
  | .ptyn => s.ptyn = t.ptyn ∧ s.ptynAbFlag = t.ptynAbFlag
  | .oda => s.rdsOda.rows = t.rdsOda.rows

/-! ### The invariant -/

/-- The sum of the sixteen per-type counters, modulo 2^32 (R128). -/
def groupTypeSum (v : Vector Counter 16) : Counter := v.toList.foldr (· + ·) 0

/-- What holds of the state between two steps. -/
structure State.Inv (s : State) : Prop where
  /-- R46 invariant 3: the set holds no more than was announced, and that is at most `MAX_AF`. -/
  afBound : s.rdsAf.size.toNat ≤ s.rdsAf.announcedAf.toNat ∧ s.rdsAf.announcedAf.toNat ≤ 25
  /-- R171: "Duplicate frequencies are not inserted." -/
  afNodup : s.rdsAf.entries.Nodup
  /-- R46 invariant 4: the table's bound. -/
  odaBound : s.rdsOda.size ≤ 18
  /-- R46 invariant 4: a (group id, version) pair is unique in the table. -/
  odaUnique : (s.rdsOda.rows.map fun r => (r.groupId, r.version)).Nodup
  /-- R33: `INFO_ODA` is set when a row has been appended, and the other bits are 0. -/
  odaInfo : s.decodeInformation = if s.rdsOda.size = 0 then 0 else infoOda
  /-- R23: the length of the text, and 0x00 beyond it. -/
  rtPadded : s.rtLength.toNat ≤ 64 ∧ ∀ i : Fin 64, s.rtLength.toNat ≤ i.val → s.rt[i] = 0
  /-- R42: 16 occurs only inside a step. -/
  rtExpected : s.nextRtSegment.toNat ≤ 15
  /-- R269 (a), (b): the windows received and still announced fit the buffer. -/
  tmcWindowCount : s.newTmcMsg.length.toNat ≤ 4 ∧ (1 ≤ s.newTmcMsg.length.toNat → s.newTmcMsg.length.toNat + s.grpSeqId.toNat ≤ 4)
  /-- R44: bits 3 to 0 of a stored window are zero. -/
  tmcWindowLow : ∀ i : Fin 4, s.optionalTmc[i].extractLsb' 0 4 = 0
  /-- R271, R272: the published optional fields are within the bound, none has label 15, and those beyond the size are zero. -/
  tmcFields : s.tmcMsg.additional.size ≤ 28
    ∧ ∀ i : Fin 28, if i.val < s.tmcMsg.additional.size then s.tmcMsg.additional.fields[i].label ≠ 15
        else s.tmcMsg.additional.fields[i] = ⟨0, 0⟩
  /-- R31, R32: bits 17 to 31 are always 0, and the bit `ODA` of `valid_fields` is never set. -/
  validWidth : ∀ k, 16 ≤ k → s.validFields.getLsbD k = false
  /-- R31: bits 17 to 31 of the mask are always 0. -/
  maskWidth : ∀ k, 17 ≤ k → s.updMask.getLsbD k = false
  /-- R32, C5: at most one of the two kinds of TMC message is valid. -/
  tmcOneKind : ¬(s.isValid .tmcSg = true ∧ s.isValid .tmcMg = true)
  /-- R128, R147: the group counter is the sum of the per-type counters. -/
  groupSum : s.stats.groupCnt = groupTypeSum s.stats.groupTypeCnt

/-! ### What a claim says of one field -/

/-- The rule of the validation buffer (R141) for a field with staging register `stg` and public register `pub`, which becomes `pub'`:
a candidate is accepted when it equals the staged value and differs from the public one. -/
def Observed {w : Nat} (f : Field) (x stg pub pub' : BitVec w) (s t : State) : Prop :=
  if x = stg ∧ x ≠ pub then pub' = x ∧ t.isValid f = true ∧ t.raised f = true
  else pub' = pub ∧ t.isValid f = s.isValid f ∧ t.raised f = false

/-- The field is validated, and its mask bit says whether its public value changed. -/
def Published (f : Field) (changed : Bool) (t : State) : Prop := t.isValid f = true ∧ t.raised f = changed

/-- The field's bits are left alone: its validity is as before and its mask bit is 0. -/
def Quiet (f : Field) (s t : State) : Prop := t.isValid f = s.isValid f ∧ t.raised f = false

/-- Everything a reset clears is zero (R45, R361): all registers but the configuration bit and the statistics, and the mask. -/
def State.IsCleared (t : State) : Prop :=
  (t.pi = 0 ∧ t.pty = 0 ∧ t.tp = false ∧ t.ta = false ∧ t.ms = false ∧ t.di = 0 ∧ t.ecc = 0 ∧ t.lc = 0 ∧ t.rtAbFlag = false
    ∧ t.ptynAbFlag = false)
  ∧ ((∀ i : Fin 8, t.ps[i] = 0) ∧ (∀ i : Fin 64, t.rt[i] = 0) ∧ t.rtLength = 0 ∧ (∀ i : Fin 8, t.ptyn[i] = 0))
  ∧ (t.rdsAf.announcedAf = 0 ∧ t.rdsAf.size = 0 ∧ ∀ i : Fin 25, t.rdsAf.af[i] = 0)
  ∧ (t.rdsOda.size = 0 ∧ ∀ i : Fin 18, t.rdsOda.oda[i] = ⟨0, .a, 0⟩)
  ∧ (t.time = ⟨0, 0, 0, 0, 0, 0, 0⟩ ∧ t.tmcSys = ⟨0, false, false, 0, 0, 0, 0, 0, 0⟩)
  ∧ (t.tmcMsg.toTmcPending = ⟨0, false, false, 0, 0, 0, 0⟩ ∧ t.tmcMsg.additional.size = 0
    ∧ ∀ i : Fin 28, t.tmcMsg.additional.fields[i] = ⟨0, 0⟩)
  ∧ (t.validFields = 0 ∧ t.decodeInformation = 0 ∧ t.rdsGroup = ⟨0, 0, .a, 0, 0, 0, 0, 0⟩)
  ∧ (t.decodeState = .empty ∧ ∀ i : Fin 4, t.rdsDataRaw[i] = ⟨0, 0⟩)
  ∧ (t.newPi = 0 ∧ t.newPty = 0 ∧ t.newEcc = 0 ∧ t.newLc = 0 ∧ t.newMjd = 0)
  ∧ (∀ i : Fin 8, t.newPs[i] = 0 ∧ t.newPsValid[i] = false)
  ∧ (∀ h : Fin 2, (∀ j : Fin 4, t.newPtyn[h][j] = 0) ∧ t.newPtynValid[h] = false)
  ∧ (t.newDi = 0 ∧ t.nextDiSegment = 0 ∧ (∀ i : Fin 64, t.newRt[i] = 0) ∧ t.nextRtSegment = 0)
  ∧ (t.prevTmcGroup = ⟨0, 0, .a, 0, 0, 0, 0, 0⟩ ∧ t.prevTmcSysGroup = ⟨0, 0, .a, 0, 0, 0, 0, 0⟩ ∧ t.prevTmcArmed = false)
  ∧ (t.newTmcMsg = ⟨0, false, false, 0, 0, 0, 0⟩ ∧ (∀ i : Fin 4, t.optionalTmc[i] = 0) ∧ t.continuityId = 0 ∧ t.grpSeqId = 0)
  ∧ t.updMask = 0

/-! ### Blocks -/

/-- The labels of a block (R14). -/
inductive Label where
  | a | b | c | d | cPrime
  deriving DecidableEq, Repr

/-- The effective label of a control byte (R122); none is `Invalid`. -/
def effectiveLabel (block : Byte) : Option Label :=
  if block.getLsbD 7 then none
  else match (block.extractLsb' 0 3).toNat with
    | 0 => some .a
    | 1 => some .b
    | 2 => some .c
    | 3 => some .d
    | 4 => some .cPrime
    | _ => none

/-- The labels a state of the assembler expects (the table of R123 to R127). -/
def DecodeState.expects (d : DecodeState) (l : Label) : Bool :=
  match d with
  | .empty => l == .a
  | .aReceived => l == .b
  | .bReceived => l == .c || l == .cPrime
  | .cReceived => l == .d

/-- The block with that control byte is accepted in that state. -/
def DecodeState.accepts (d : DecodeState) (block : Byte) : Bool :=
  match effectiveLabel block with
  | some l => d.expects l
  | none => false

/-- The numeric value of `decode_state` (R36): how many blocks of the group have been taken. -/
def DecodeState.taken : DecodeState → Nat
  | .empty => 0
  | .aReceived => 1
  | .bReceived => 2
  | .cReceived => 3

/-! ### Groups -/

/-- `i` is a GROUP row's instruction, and `p` are its four payloads. -/
def Encodes (i : Instr) (p : GroupBlocks) : Prop := i.wellFormed = true ∧ encodeGroup i = some p

/-- The group's id `B[15:12]` (R85). -/
def gidOf (p : GroupBlocks) : Nat := (p.b.extractLsb' 12 4).toNat

/-- The group's version bit `B[11]` (R85). -/
def verBOf (p : GroupBlocks) : Bool := p.b.getLsbD 11

/-- The groups the core ignores (R100, R101, R190): no decoder, or a 1A variant other than 0 and 3. -/
def isIgnoredGroup (p : GroupBlocks) : Bool :=
  (gidOf p == 5 || gidOf p == 6 || gidOf p == 7 || gidOf p == 9 || decide (11 ≤ gidOf p))
  || (verBOf p && (gidOf p == 1 || gidOf p == 3 || gidOf p == 4 || gidOf p == 8 || gidOf p == 10))
  || (gidOf p == 1 && p.c.extractLsb' 12 3 != 0 && p.c.extractLsb' 12 3 != 3)

/-! ### Alternative frequencies, over numbers and lists (R168 to R172) -/

/-- The announced count and the frequencies held, in hertz and in insertion order. -/
structure AfView where
  announced : Nat
  entries   : List Nat
  deriving DecidableEq, Repr

/-- What the registers of the set stand for. -/
def AfSet.view (a : AfSet) : AfView := ⟨a.announcedAf.toNat, a.entries.map BitVec.toNat⟩

/-- R171. -/
def AfView.insert (f : Nat) (v : AfView) : AfView :=
  if 25 ≤ v.entries.length ∨ v.announced ≤ v.entries.length ∨ f ∈ v.entries then v else { v with entries := v.entries ++ [f] }

/-- R169, R170. -/
def AfView.plain (n : Nat) (v : AfView) : AfView :=
  if 1 ≤ n ∧ n ≤ 204 then v.insert (87500000 + n * 100000)
  else if 224 ≤ n ∧ n ≤ 249 then ⟨n - 224, v.entries.take (n - 224)⟩
  else v

/-- R172. -/
def AfView.lfmf (n : Nat) (v : AfView) : AfView :=
  if n = 0 then v else if n ≤ 15 then v.insert (153000 + (n - 1) * 9000) else v.insert (531000 + (n - 16) * 9000)

/-- R168. -/
def AfView.pair (b1 b2 : Nat) (v : AfView) : AfView := if b1 = 250 then v.lfmf b2 else (v.plain b1).plain b2

/-! ### Radio text, over positions (R201 to R203) -/

/-- The characters a type-2 group carries (R203). -/
def rtCharsOf (p : GroupBlocks) : List Byte :=
  if verBOf p then [p.d.extractLsb' 8 8, p.d.extractLsb' 0 8]
  else [p.c.extractLsb' 8 8, p.c.extractLsb' 0 8, p.d.extractLsb' 8 8, p.d.extractLsb' 0 8]

/-- The group's segment `B[3:0]`. -/
def rtSegmentOf (p : GroupBlocks) : Nat := (p.b.extractLsb' 0 4).toNat

/-- The length that segment 15 completes (R203): 64 for version A, 32 for version B. -/
def rtFullLength (p : GroupBlocks) : Nat := if verBOf p then 32 else 64

/-- The group toggles the A/B flag (R201). -/
def rtToggles (p : GroupBlocks) (s : State) : Bool := p.b.getLsbD 4 != s.rtAbFlag

/-- The segment expected when the segment of the group is looked at (R201, R202). -/
def rtExpects (p : GroupBlocks) (s : State) : Nat := if rtToggles p s then 0 else s.nextRtSegment.toNat

/-- The group's segment is accepted (R202). -/
def rtTakes (p : GroupBlocks) (s : State) : Bool := decide (rtSegmentOf p = 0 ∨ rtSegmentOf p = rtExpects p s)

/-- The staged text after the toggle and the store (R201, R203). -/
def rtStagedAt (p : GroupBlocks) (s : State) (k : Fin 64) : Byte :=
  let n := (rtCharsOf p).length
  if rtTakes p s ∧ n * rtSegmentOf p ≤ k.val ∧ k.val < n * rtSegmentOf p + n then (rtCharsOf p).getD (k.val - n * rtSegmentOf p) 0
  else if rtToggles p s then 0 else s.newRt[k]

/-- The public text when the group's characters are looked at (R201). -/
def rtPublicAt (p : GroupBlocks) (s : State) (k : Fin 64) : Byte := if rtToggles p s then 0 else s.rt[k]

/-- The public length then. -/
def rtPublicLength (p : GroupBlocks) (s : State) : Nat := if rtToggles p s then 0 else s.rtLength.toNat

/-! ### TMC: windows and the optional-field stream, over lists of bits (R96, R270, R271) -/

/-- `(C[11:0] << 20) | (D << 4)` (R96). -/
def windowOf (p : GroupBlocks) : BitVec 32 := ((p.c.extractLsb' 0 12).setWidth 32 <<< 20) ||| (p.d.setWidth 32 <<< 4)

/-- The usable bits 31 to 4 of a window, first bit first. -/
def windowBits (w : BitVec 32) : List Bool := (List.range 28).map fun k => w.getLsbD (31 - k)

/-- The stream of the first `n` windows. -/
def streamBits (n : Nat) (w : Vector (BitVec 32) 4) : List Bool := (w.toList.take n).flatMap windowBits

/-- The number whose binary digits, most significant first, are the list. -/
def bitsValue (bs : List Bool) : Nat := bs.foldl (fun n b => 2 * n + b.toNat) 0

/-- `L(label)`, the row of the table of R96. -/
def tmcLengths : List Nat := [3, 3, 5, 5, 5, 8, 8, 8, 8, 11, 16, 16, 16, 16, 0, 0]

/-- The records of a stream (R270, R271); `fuel` bounds how many are read. -/
def tmcRecords : Nat → List Bool → List TmcField
  | 0, _ => []
  | fuel + 1, bs =>
    let label := bitsValue (bs.take 4)
    let rest := bs.drop 4
    let len := tmcLengths.getD label 0
    if bs.length < 4 ∨ rest.length < len then []
    else
      (if label = 15 then [] else [⟨BitVec.ofNat 4 label, BitVec.ofNat 16 (bitsValue (rest.take len))⟩])
        ++ tmcRecords fuel (rest.drop len)

/-! ### Clock-time, over rationals (R245) -/

/-- `y` of R245, in its decimal form. -/
def decimalY (m : Int) : Int := ⌊((m : Rat) - 150782 / 10) / (36525 / 100)⌋

/-- `floor(y * 365.25)` of R245. -/
def decimalYp (m : Int) : Int := ⌊(decimalY m : Rat) * (36525 / 100)⌋

/-- `m` of R245, in its decimal form. -/
def decimalM (m : Int) : Int := ⌊((m : Rat) - 149561 / 10 - (decimalYp m : Rat)) / (306001 / 10000)⌋

/-- `d` of R245, in its decimal form. -/
def decimalD (m : Int) : Int := m - 14956 - decimalYp m - ⌊(decimalM m : Rat) * (306001 / 10000)⌋

/-- `k` of R245. -/
def decimalK (m : Int) : Int := if decimalM m = 14 ∨ decimalM m = 15 then 1 else 0

/-! ### Programme type name (R301, R302) -/

/-- The group toggles the A/B flag (R301). -/
def ptynToggles (p : GroupBlocks) (s : State) : Bool := p.b.getLsbD 4 != s.ptynAbFlag

/-- The half a group carries (R302). -/
def ptynCharsOf (p : GroupBlocks) : Chars 4 := #v[p.c.extractLsb' 8 8, p.c.extractLsb' 0 8, p.d.extractLsb' 8 8, p.d.extractLsb' 0 8]

/-- The half's number (R302). -/
def ptynHalfOf (p : GroupBlocks) : Fin 2 := if p.b.getLsbD 0 then 1 else 0

/-- The staged halves when the group's half is looked at (R301). -/
def ptynStaged (p : GroupBlocks) (s : State) (h : Fin 2) : Chars 4 :=
  if ptynToggles p s then Vector.replicate _ 0 else s.newPtyn[h]

/-- The public name then. -/
def ptynPublic (p : GroupBlocks) (s : State) : Chars 8 := if ptynToggles p s then Vector.replicate _ 0 else s.ptyn

end Sys2Proof.Machine
end

