-- ==== Sys2Proof/Certificates/Slice0/Obligations.lean ====
section
/-! DEFINITION. The statements about the machine. In each, `s` is any state with an instance (`created`), reachable or not, unless a
premise says otherwise; a premise that only reachable states meet is part of `State.Inv`, which `StepKeepsTheInvariant` states. -/

open Sys2Proof Sys2Proof.Machine

/-! ### Reset and the host operations -/

/-- R45, R311, R313, R361: `CREATE` and `RESET` clear every register; `CREATE` takes the configuration bit given, the only way to write
it, and zeroes the statistics; `RESET` keeps the bit and, if asked, the statistics. That `CREATE` answers in every state, with a living
or a destroyed instance too, is the model's reading (log 5); that the input still to come is kept, and that there is a read port, which
is empty after either, are the model's choices (log 1, 3). -/
def Obligations.CreateAndResetClearTheState : Prop :=
  (∀ (b : Bool) (s : State), ∃ t, exec (.create b) s = .next t
    ∧ t.IsCleared ∧ t.isRbds = b ∧ t.stats = ⟨0, 0, 0, 0, 0, Vector.replicate 16 0⟩
    ∧ t.readOut = none ∧ t.pending = s.pending ∧ t.created = true)
  ∧ (∀ (preserve : Bool) (s : State), s.created = true → ∃ t, exec (.reset preserve) s = .next t
    ∧ t.IsCleared ∧ t.isRbds = s.isRbds ∧ t.stats = (if preserve then s.stats else ⟨0, 0, 0, 0, 0, Vector.replicate 16 0⟩)
    ∧ t.readOut = none ∧ t.pending = s.pending ∧ t.created = true)
  ∧ ∀ (i : Instr) (s t : State), exec i s = .next t → (∀ b, i ≠ .create b) → t.isRbds = s.isRbds

/-- The reset state of the model is the state after `create` of an RDS decoder without input. The bit is the model's choice (log 2). -/
def Obligations.ResetStateIsCreateOfRds : Prop :=
  (∀ s : State, s.pending = [] → exec (.create false) s = .next State.reset) ∧ State.reset.IsCleared

/-- The invariant holds after reset. -/
def Obligations.ResetMeetsTheInvariant : Prop := State.reset.Inv

/-- R68: the observing operations change no register; every `ADD` moves `block_cnt`, so it is not idempotent. That a read is a step that
leaves its value on a port, and that the mask port is 0 after it, are the model's choices (log 3). -/
def Obligations.ReadsHaveNoSideEffect : Prop :=
  ∀ s : State, s.created = true →
    (∀ i : Instr, (i = .getGroup ∨ (∃ r, i = .read r) ∨ i = .lookupIndex) →
      ∃ t v, exec i s = .next t ∧ Untouched [.updMask, .readOut] s t ∧ t.updMask = 0 ∧ t.readOut = some v
        ∧ ∃ u, exec i t = .next u ∧ u = t)
    ∧ ∀ (data : Word) (block : Byte), ∃ t, exec (.add data block) s = .next t ∧ t.stats.blockCnt = s.stats.blockCnt + 1

/-- R315, R316: what a read of each public register and `GET_GROUP` return. The port that holds it is the model's (log 3); of the two
sets the meaningful entries are shown (log 11), and of the Group record every field of R34 (log 18). -/
def Obligations.ReadsReturnTheRegister : Prop :=
  ∀ s : State, s.created = true →
    (∃ t, exec .getGroup s = .next t ∧ t.readOut = some (.group s.rdsGroup))
    ∧ ∀ r : PublicReg, ∃ t, exec (.read r) s = .next t ∧ t.readOut = some (match r with
      | .pi => .bits 16 s.pi | .pty => .bits 5 s.pty | .tp => .flag s.tp | .ta => .flag s.ta | .ms => .flag s.ms
      | .di => .bits 4 s.di | .ecc => .bits 8 s.ecc | .lc => .bits 8 s.lc | .rtAbFlag => .flag s.rtAbFlag
      | .ptynAbFlag => .flag s.ptynAbFlag | .ps => .chars s.ps.toList | .rt => .chars s.rt.toList
      | .rtLength => .bits 7 s.rtLength | .ptyn => .chars s.ptyn.toList
      | .rdsAf => .afSet s.rdsAf.announcedAf s.rdsAf.entries | .rdsOda => .odaTable s.rdsOda.rows | .time => .time s.time
      | .tmcSys => .tmcSys s.tmcSys | .tmcMsg => .tmcMsg s.tmcMsg | .stats => .statistics s.stats
      | .validFields => .bits 32 s.validFields | .decodeInformation => .bits 32 s.decodeInformation
      | .rdsGroup => .group s.rdsGroup | .isRbds => .flag s.isRbds)

/-- R318: the lookup indices, from the public registers whether valid or not. Whether a country row exists outside 0xE0 to 0xE4 is a
free value (log 9), of which nothing is said here. The port that holds the answer is the model's (log 3). -/
def Obligations.LookupIndicesFromPublicRegisters : Prop :=
  ∀ s : State, s.created = true → ∃ t x, exec .lookupIndex s = .next t ∧ t.readOut = some (.indices x)
    ∧ Untouched [.updMask, .readOut] s t
    ∧ x.ptyIsRbds = s.isRbds ∧ x.pty = s.pty ∧ x.ptyInRange = true
    ∧ x.coverage = s.pi.extractLsb' 8 4 ∧ x.coverInRange = true
    ∧ x.countryEcc = s.ecc ∧ x.countryPi = s.pi.extractLsb' 12 4
    ∧ (0xE0 ≤ s.ecc.toNat → s.ecc.toNat ≤ 0xE4 → x.countryInRange = true)
    ∧ x.language = s.lc ∧ x.langInRange = decide (s.lc.toNat ≤ 127)

/-- `DESTROY` ends the instance and changes no register; after it everything but `CREATE` is refused. The refusal and the `created`
flag are the model's (log 5). -/
def Obligations.DestroyEndsTheInstance : Prop :=
  (∀ s : State, s.created = true → ∃ t, exec .destroy s = .next t ∧ t.created = false
    ∧ Untouched [.created, .updMask, .readOut] s t)
  ∧ ∀ (i : Instr) (s : State), s.created = false → (∀ b, i ≠ .create b) → exec i s = .refused .destroyed

/-- No instruction is refused and none faults where there is an instance (R339, R333). That there is no fault at all is the model's
reading (log 13), and a step without an operation, which completes too, is its choice (log 4). -/
def Obligations.EveryInstructionCompletes : Prop :=
  (∀ (i : Instr) (s : State), s.created = true → ∃ t, exec i s = .next t)
  ∧ ∀ s : State, s.created = true → ∃ t, step s = .next t

/-! ### Steps and decoding -/

/-- A step takes the next host operation and runs the instruction it is; without one, the registers are held (R344; log 1, 4). -/
def Obligations.StepRunsTheNextOperation : Prop :=
  (∀ (op : HostOp) (rest : List HostOp) (s : State), s.pending = op :: rest →
    step s = exec (decodeOp op) { s with pending := rest })
  ∧ ∀ s : State, s.pending = [] → ∃ t, step s = .next t ∧ Untouched [.updMask, .readOut] s t ∧ t.updMask = 0 ∧ t.readOut = none

/-- R314: `ADD` is the RAWBLOCK row its argument decodes to, one of the nine, whose encoding is the argument again. -/
def Obligations.AddRunsTheBlockRow : Prop :=
  ∀ (data : Word) (block : Byte) (s : State),
    exec (.add data block) s = exec (decodeBlock ⟨data, block⟩) s
    ∧ (decodeBlock ⟨data, block⟩).isBlock = true
    ∧ encodeBlock (decodeBlock ⟨data, block⟩) = some ⟨data, block⟩

/-- Words written out from the spec's encodings and vectors decode to the instructions they stand for. -/
def Obligations.KnownWordsDecode : Prop :=
  decodeGroup ⟨0x1234, 0x0005, 0xE304, 0x5354⟩ = .g0a 0x1234 false 0 false false true 1 0xE3 0x04 0x53 0x54
  ∧ decodeGroup ⟨0x1234, 0x2415, 0x4142, 0x4344⟩ = .g2a 0x1234 true 0 true 5 0x41 0x42 0x43 0x44
  ∧ decodeGroup ⟨0x1234, 0x3010, 0x0065, 0xCD46⟩ = .g3aTmcSys0 0x1234 false 0 8 .a 0 1 true false 5 0xCD46
  ∧ decodeGroup ⟨0x1234, 0x4001, 0x6144, 0xA782⟩ = .g4a 0x1234 false 0 0 45218 10 30 false 2
  ∧ decodeGroup ⟨0x1234, 0x8013, 0x1120, 0xABCD⟩ = .g8aSg 0x1234 false 0 3 false false 2 0x120 0xABCD
  ∧ decodeGroup ⟨0x1234, 0xA001, 0x2046, 0x4D21⟩ = .g10a 0x1234 false 0 false 0 true 0x20 0x46 0x4D 0x21
  ∧ decodeGroup ⟨0x1234, 0x5000, 0x0000, 0x0000⟩ = .g5 0x1234 .a false 0 0 0 0
  ∧ decodeBlock ⟨0x1234, 0x44⟩ = .blkCp true 0 0x1234 ∧ decodeBlock ⟨0x1234, 0x80⟩ = .blkErr false 0 0 0x1234

/-- Decoding an encoded well-formed instruction of any level gives it back. -/
def Obligations.DecodeOfEncodeIsTheInstruction : Prop :=
  ∀ i : Instr, i.wellFormed = true →
    (∀ p, encodeGroup i = some p → decodeGroup p = i ∧ GroupBlocks.ofWord p.word = p)
    ∧ (∀ r, encodeBlock i = some r → decodeBlock r = i ∧ RawBlock.ofWord r.word = r)
    ∧ (∀ op, encodeOp i = some op → decodeOp op = i)
    ∧ ((encodeGroup i).isSome || (encodeBlock i).isSome || (encodeOp i).isSome) = true

/-- Every word has one meaning: whatever the four payloads, the control byte or the operation, what they decode to is well-formed and
encodes to them again, so no bit is dropped. -/
def Obligations.EncodeOfDecodeIsTheWord : Prop :=
  (∀ p : GroupBlocks, (decodeGroup p).wellFormed = true ∧ encodeGroup (decodeGroup p) = some p)
  ∧ (∀ r : RawBlock, (decodeBlock r).wellFormed = true ∧ encodeBlock (decodeBlock r) = some r)
  ∧ ∀ op : HostOp, (decodeOp op).wellFormed = true ∧ encodeOp (decodeOp op) = some op

/-- The decoder agrees with the table of R105: the row it picks is the first whose match equals the word under its mask. -/
def Obligations.DecoderFollowsTheOpcodeTable : Prop :=
  (∀ p : GroupBlocks, firstRow groupRows p.word.toNat = some (decodeGroup p).mnemonic)
  ∧ ∀ r : RawBlock, firstRow blockRows r.block.toNat = some (decodeBlock r).mnemonic

/-! ### The block assembler -/

/-- R121: the counters at entry of a block, by the two flags of its control byte; for every RAWBLOCK row and for `ADD`. -/
def Obligations.CountersAtEntryOfABlock : Prop :=
  ∀ (i : Instr) (r : RawBlock) (s : State), (encodeBlock i = some r ∨ i = .add r.data r.block) → s.created = true →
    ∃ t, exec i s = .next t
      ∧ t.stats.blockCnt = s.stats.blockCnt + 1
      ∧ t.stats.blockErrorCnt = s.stats.blockErrorCnt + (if r.block.getLsbD 7 then 1 else 0)
      ∧ t.stats.blockCorrectedCnt = s.stats.blockCorrectedCnt + (if !r.block.getLsbD 7 && r.block.getLsbD 6 then 1 else 0)

/-- R123, R124, R125: a block whose label is the expected one is stored and the assembler advances. Block D is another statement. That
the read port is empty after it is the model's choice (log 3). -/
def Obligations.ExpectedBlockIsStored : Prop :=
  ∀ (i : Instr) (r : RawBlock) (s : State), encodeBlock i = some r → s.created = true →
    s.decodeState.accepts r.block = true → s.decodeState ≠ .cReceived →
    ∃ t, exec i s = .next t ∧ t.updMask = 0 ∧ t.readOut = none
      ∧ (match s.decodeState with
        | .empty => t.decodeState = .aReceived ∧ t.rdsDataRaw = #v[r, ⟨0, 0⟩, ⟨0, 0⟩, ⟨0, 0⟩]
        | .aReceived => t.decodeState = .bReceived ∧ t.rdsDataRaw = #v[s.rdsDataRaw[0], r, s.rdsDataRaw[2], s.rdsDataRaw[3]]
        | .bReceived => t.decodeState = .cReceived ∧ t.rdsDataRaw = #v[s.rdsDataRaw[0], s.rdsDataRaw[1], r, s.rdsDataRaw[3]]
        | .cReceived => False)
      ∧ t.stats.groupErrorCnt = s.stats.groupErrorCnt ∧ t.stats.groupCnt = s.stats.groupCnt
      ∧ t.stats.groupTypeCnt = s.stats.groupTypeCnt
      ∧ Untouched [.decodeState, .rdsDataRaw, .stats, .updMask, .readOut] s t

/-- R127, R336: any other block, an error block and the codes 5 to 7 included, is a group error: the counter and the state, and no
other register, so that it does not break a pair of receptions. That the read port is empty after it is the model's choice (log 3). -/
def Obligations.UnexpectedBlockIsAGroupError : Prop :=
  ∀ (i : Instr) (r : RawBlock) (s : State), encodeBlock i = some r → s.created = true → s.decodeState.accepts r.block = false →
    ∃ t, exec i s = .next t ∧ t.decodeState = .empty ∧ t.stats.groupErrorCnt = s.stats.groupErrorCnt + 1
      ∧ t.updMask = 0 ∧ t.readOut = none
      ∧ t.stats.groupCnt = s.stats.groupCnt ∧ t.stats.groupTypeCnt = s.stats.groupTypeCnt
      ∧ Untouched [.decodeState, .stats, .updMask, .readOut] s t

/-- R126, R140: a block D in CReceived is stored, empties the assembler, counts the group, and runs the GROUP row that the four stored
payloads decode to. That a GROUP row is the decode alone is the model's reading (log 6), and the empty ports before it its choice
(log 3). -/
def Obligations.BlockDRunsTheGroupRow : Prop :=
  ∀ (corrected : Bool) (unused : BitVec 3) (data : Word) (s : State), s.created = true → s.decodeState = .cReceived →
    (∃ t, exec (.blkD corrected unused data) s = .next t)
    ∧ exec (.blkD corrected unused data) s =
        exec (decodeGroup ⟨s.rdsDataRaw[0].data, s.rdsDataRaw[1].data, s.rdsDataRaw[2].data, data⟩)
          { s with
            rdsDataRaw := #v[s.rdsDataRaw[0], s.rdsDataRaw[1], s.rdsDataRaw[2], ⟨data, ctrlByte false corrected unused 3⟩]
            decodeState := .empty
            stats := { s.stats with
              blockCnt := s.stats.blockCnt + 1
              blockCorrectedCnt := s.stats.blockCorrectedCnt + (if corrected then 1 else 0)
              groupCnt := s.stats.groupCnt + 1 }
            updMask := 0
            readOut := none }

/-- The accounting behind R128: one block moves the counters and the assembler so that `4 * group_cnt + group_error_cnt` and the
blocks taken never grow by more than one, and grow by exactly one unless the group error threw stored blocks away. -/
def Obligations.BlocksAreAccountedFor : Prop :=
  ∀ (data : Word) (block : Byte) (s : State), s.created = true → ∃ t, exec (.add data block) s = .next t ∧
    ∃ dg de : Nat, t.stats.groupCnt = s.stats.groupCnt + BitVec.ofNat 32 dg
      ∧ t.stats.groupErrorCnt = s.stats.groupErrorCnt + BitVec.ofNat 32 de
      ∧ groupTypeSum t.stats.groupTypeCnt = groupTypeSum s.stats.groupTypeCnt + BitVec.ofNat 32 dg
      ∧ 4 * dg + de + t.decodeState.taken ≤ 1 + s.decodeState.taken
      ∧ (4 * dg + de + t.decodeState.taken = 1 + s.decodeState.taken ↔ (de = 0 ∨ s.decodeState = .empty))

/-- R120: the result of an `ADD` is 0 unless it completed a group. -/
def Obligations.MaskIsZeroUnlessAGroupCompletes : Prop :=
  ∀ (data : Word) (block : Byte) (s t : State), exec (.add data block) s = .next t →
    (s.decodeState ≠ .cReceived ∨ effectiveLabel block ≠ some .d) → t.updMask = 0

/-- Four clean blocks of a well-formed group, fed to a decoder in Empty, execute that group's instruction (R104, R83): the first three
steps show no mask, the third label may be C or C', and the fourth step is the instruction, over the counted and stored blocks. That
a GROUP row is the decode alone, without its four blocks, is the model's reading (log 6); the input list is its choice (log 1). -/
def Obligations.FourBlocksExecuteTheGroup : Prop :=
  ∀ (i : Instr) (p : GroupBlocks) (third : Byte) (rest : List HostOp) (s : State), Encodes i p → s.created = true →
    s.decodeState = .empty → (third = 2 ∨ third = 4) →
    s.pending = .blkStb p.a 0 :: .blkStb p.b 1 :: .blkStb p.c third :: .blkStb p.d 3 :: rest →
    ∃ s1 s2 s3 s4, step s = .next s1 ∧ step s1 = .next s2 ∧ step s2 = .next s3 ∧ step s3 = .next s4
      ∧ s1.updMask = 0 ∧ s2.updMask = 0 ∧ s3.updMask = 0
      ∧ exec i { s with
          decodeState := .empty
          rdsDataRaw := #v[⟨p.a, 0⟩, ⟨p.b, 1⟩, ⟨p.c, third⟩, ⟨p.d, 3⟩]
          stats := { s.stats with blockCnt := s.stats.blockCnt + 4, groupCnt := s.stats.groupCnt + 1 }
          pending := rest } = .next s4

/-! ### Every completed group -/

/-- R142, R145: PI and PTY of every group, of all 34 rows, go through their validation buffers (R141). -/
def Obligations.PiAndPtyAreAcceptedTwice : Prop :=
  ∀ (i : Instr) (p : GroupBlocks) (s : State), encodeGroup i = some p → s.created = true →
    ∃ t, exec i s = .next t
      ∧ t.newPi = p.a ∧ Observed .pi p.a s.newPi s.pi t.pi s t
      ∧ t.newPty = p.b.extractLsb' 5 5 ∧ Observed .pty (p.b.extractLsb' 5 5) s.newPty s.pty t.pty s t

/-- R143, R144, R147: TP at once, the Group record, and the counter of the group's type, for all 34 rows. That a GROUP row leaves the
other counters and the assembler alone, being the decode without its four blocks, is the model's reading (log 6); the empty read port
is its choice (log 3). -/
def Obligations.TpRecordAndCounterOfEveryGroup : Prop :=
  ∀ (i : Instr) (p : GroupBlocks) (s : State), encodeGroup i = some p → s.created = true →
    ∃ t, exec i s = .next t
      ∧ t.tp = p.b.getLsbD 10 ∧ Published .tp (p.b.getLsbD 10 != s.tp) t
      ∧ t.rdsGroup = { pi := p.a, groupId := p.b.extractLsb' 12 4, version := if p.b.getLsbD 11 then .b else .a,
                       dataBLsb := p.b.extractLsb' 0 5, dataCMsb := p.c.extractLsb' 8 8, dataCLsb := p.c.extractLsb' 0 8,
                       dataDMsb := p.d.extractLsb' 8 8, dataDLsb := p.d.extractLsb' 0 8 }
      ∧ (∀ k : Fin 16, t.stats.groupTypeCnt[k] = s.stats.groupTypeCnt[k] + (if k.val = gidOf p then 1 else 0))
      ∧ t.stats.blockCnt = s.stats.blockCnt ∧ t.stats.groupCnt = s.stats.groupCnt
      ∧ t.stats.blockErrorCnt = s.stats.blockErrorCnt ∧ t.stats.blockCorrectedCnt = s.stats.blockCorrectedCnt
      ∧ t.stats.groupErrorCnt = s.stats.groupErrorCnt
      ∧ t.isRbds = s.isRbds ∧ t.decodeState = s.decodeState ∧ t.rdsDataRaw = s.rdsDataRaw ∧ t.readOut = none
      ∧ t.pending = s.pending ∧ t.created = true

/-- The groups without a decoder and the other 1A variants do what every group does and nothing else (R100, R148, R190). -/
def Obligations.IgnoredGroupsTouchNothingElse : Prop :=
  ∀ (i : Instr) (p : GroupBlocks) (s : State), Encodes i p → isIgnoredGroup p = true → s.created = true →
    ∃ t, exec i s = .next t ∧ GroupFrame [] [] s t

/-! ### Group 0 -/

/-- R161, R162: TA and MS of `G0A` and `G0B` are accepted at once; and the frame of the two rows. -/
def Obligations.TaAndMsAreAcceptedAtOnce : Prop :=
  ∀ (i : Instr) (p : GroupBlocks) (s : State), encodeGroup i = some p → gidOf p = 0 → s.created = true →
    ∃ t, exec i s = .next t
      ∧ t.ta = p.b.getLsbD 4 ∧ Published .ta (p.b.getLsbD 4 != s.ta) t
      ∧ t.ms = p.b.getLsbD 3 ∧ Published .ms (p.b.getLsbD 3 != s.ms) t
      ∧ GroupFrame [.ta, .ms, .newPs, .newPsValid, .ps, .newDi, .nextDiSegment, .di, .rdsAf] [.ta, .ms, .ps, .di, .af] s t

/-- R163, R164: the two PS characters of `G0A` and `G0B`, in the order first then second, and publication. -/
def Obligations.PsCharactersAreStagedAndPublished : Prop :=
  ∀ (i : Instr) (p : GroupBlocks) (s : State), encodeGroup i = some p → gidOf p = 0 → s.created = true →
    let seg := (p.b.extractLsb' 0 2).toNat
    let c0 : Byte := p.d.extractLsb' 8 8
    let c1 : Byte := p.d.extractLsb' 0 8
    ∃ t, exec i s = .next t
      ∧ (∀ k : Fin 8, t.newPs[k] = if k.val = 2 * seg then c0 else if k.val = 2 * seg + 1 then c1 else s.newPs[k])
      ∧ (∀ k : Fin 8, t.newPsValid[k] =
          if c1 ≠ s.newPs.toList.getD (2 * seg + 1) 0 then false
          else if k.val = 2 * seg + 1 then true
          else if c0 ≠ s.newPs.toList.getD (2 * seg) 0 then false
          else if k.val = 2 * seg then true
          else s.newPsValid[k])
      ∧ (if ∀ k : Fin 8, t.newPsValid[k] = true then t.ps = t.newPs ∧ Published .ps (t.newPs != s.ps) t
         else t.ps = s.ps ∧ Quiet .ps s t)

/-- R165, R166: the DI bits of `G0A` and `G0B`, segment by segment. -/
def Obligations.DiSegmentsInOrder : Prop :=
  ∀ (i : Instr) (p : GroupBlocks) (s : State), encodeGroup i = some p → gidOf p = 0 → s.created = true →
    let seg := p.b.extractLsb' 0 2
    let b := p.b.getLsbD 2
    ∃ t, exec i s = .next t
      ∧ if seg = 0 then
          (∀ k < 4, t.newDi.getLsbD k = (decide (k = 0) && b)) ∧ t.nextDiSegment = 1 ∧ t.di = s.di ∧ Quiet .di s t
        else if seg = s.nextDiSegment then
          (∀ k < 4, t.newDi.getLsbD k = if k = seg.toNat then b else s.newDi.getLsbD k) ∧
          (if seg = 3 then t.nextDiSegment = 0 ∧ t.di = t.newDi ∧ Published .di (t.newDi != s.di) t
           else t.nextDiSegment = seg + 1 ∧ t.di = s.di ∧ Quiet .di s t)
        else t.newDi = 0 ∧ t.nextDiSegment = 0 ∧ t.di = s.di ∧ Quiet .di s t

/-- R168 to R173: the AF pair of `G0A`, against the rules over numbers and lists. The premise is the bound of `State.Inv.afBound`. -/
def Obligations.AfPairUpdatesTheSet : Prop :=
  ∀ (i : Instr) (p : GroupBlocks) (s : State), encodeGroup i = some p → gidOf p = 0 → verBOf p = false → s.created = true →
    s.rdsAf.size.toNat ≤ 25 →
    ∃ t, exec i s = .next t
      ∧ t.rdsAf.view = s.rdsAf.view.pair (p.c.extractLsb' 8 8).toNat (p.c.extractLsb' 0 8).toNat
      ∧ t.raised .af = decide (t.rdsAf.view ≠ s.rdsAf.view)
      ∧ t.isValid .af = (s.isValid .af || decide (t.rdsAf.view.announced ≠ 0 ∧ t.rdsAf.view.entries.length = t.rdsAf.view.announced))

/-- R174: `G0B` runs no AF step, and its block C goes nowhere but into the Group record. -/
def Obligations.G0BReadsNoBlockC : Prop :=
  ∀ (pi : Word) (tp : Bool) (pty : BitVec 5) (ta ms dibit : Bool) (seg : BitVec 2) (xC xC' : Word) (c0 c1 : Byte) (s : State),
    s.created = true →
    ∃ t t', exec (.g0b pi tp pty ta ms dibit seg xC c0 c1) s = .next t ∧ exec (.g0b pi tp pty ta ms dibit seg xC' c0 c1) s = .next t'
      ∧ t.rdsAf = s.rdsAf ∧ Quiet .af s t ∧ t' = { t with rdsGroup := t'.rdsGroup }

/-! ### Group 1 -/

/-- R191: variant 0 of `G1A` puts the low byte of block C through the ECC buffer, and touches nothing else. -/
def Obligations.EccIsAcceptedTwice : Prop :=
  ∀ (i : Instr) (p : GroupBlocks) (s : State), Encodes i p → gidOf p = 1 → verBOf p = false → p.c.extractLsb' 12 3 = 0 →
    s.created = true →
    ∃ t, exec i s = .next t ∧ t.newEcc = p.c.extractLsb' 0 8 ∧ Observed .ecc (p.c.extractLsb' 0 8) s.newEcc s.ecc t.ecc s t
      ∧ GroupFrame [.ecc, .newEcc] [.ecc] s t

/-- R192: variant 3 of `G1A` puts the low byte of block C through the LC buffer, and touches nothing else. -/
def Obligations.LcIsAcceptedTwice : Prop :=
  ∀ (i : Instr) (p : GroupBlocks) (s : State), Encodes i p → gidOf p = 1 → verBOf p = false → p.c.extractLsb' 12 3 = 3 →
    s.created = true →
    ∃ t, exec i s = .next t ∧ t.newLc = p.c.extractLsb' 0 8 ∧ Observed .lc (p.c.extractLsb' 0 8) s.newLc s.lc t.lc s t
      ∧ GroupFrame [.lc, .newLc] [.lc] s t

/-! ### Group 2 -/

/-- R201, R202, R203: a type-2 group with no 0x0D staged after it that does not complete the text: the toggle clears, an accepted
segment is stored, a segment that is not accepted is dropped; and the frame. -/
def Obligations.RadioTextSegmentIsStaged : Prop :=
  ∀ (i : Instr) (p : GroupBlocks) (s : State), encodeGroup i = some p → gidOf p = 2 → s.created = true →
    (∀ k, rtStagedAt p s k ≠ 0x0D) → ¬(rtTakes p s = true ∧ rtSegmentOf p = 15) →
    ∃ t, exec i s = .next t
      ∧ t.rtAbFlag = p.b.getLsbD 4
      ∧ (∀ k : Fin 64, t.newRt[k] = rtStagedAt p s k ∧ t.rt[k] = rtPublicAt p s k) ∧ t.rtLength.toNat = rtPublicLength p s
      ∧ t.nextRtSegment.toNat = (if rtTakes p s then rtSegmentOf p + 1 else rtExpects p s)
      ∧ t.isValid .rt = (s.isValid .rt && !rtToggles p s) ∧ t.raised .rt = rtToggles p s
      ∧ GroupFrame [.rtAbFlag, .newRt, .rt, .rtLength, .nextRtSegment] [.rt] s t

/-- R203, R204: an accepted segment 15 with no 0x0D staged publishes 64 characters (version A) or 32 (version B). -/
def Obligations.RadioTextIsPublishedBySegment15 : Prop :=
  ∀ (i : Instr) (p : GroupBlocks) (s : State), encodeGroup i = some p → gidOf p = 2 → s.created = true →
    (∀ k, rtStagedAt p s k ≠ 0x0D) → rtTakes p s = true → rtSegmentOf p = 15 →
    ∃ t, exec i s = .next t
      ∧ (∀ k : Fin 64, t.newRt[k] = rtStagedAt p s k
          ∧ t.rt[k] = if k.val < rtFullLength p then rtStagedAt p s k else 0)
      ∧ t.rtLength.toNat = rtFullLength p ∧ t.nextRtSegment = 0
      ∧ Published .rt (decide (t.rt ≠ s.rt ∨ t.rtLength ≠ s.rtLength)) t
      ∧ t.rtAbFlag = p.b.getLsbD 4
      ∧ GroupFrame [.rtAbFlag, .newRt, .rt, .rtLength, .nextRtSegment] [.rt] s t

/-- R205: at the least staged 0x0D the text ends, whether or not the segment was accepted. That the mask bit compares with the text and
length before the group, also where segment 15 is published with the 0x0D in place first, is the model's reading of R204, R205 (b) and
R151 (log 10). -/
def Obligations.RadioTextEndsAtTheTerminator : Prop :=
  ∀ (i : Instr) (p : GroupBlocks) (s : State) (m : Fin 64), encodeGroup i = some p → gidOf p = 2 → s.created = true →
    rtStagedAt p s m = 0x0D → (∀ k : Fin 64, k < m → rtStagedAt p s k ≠ 0x0D) →
    ∃ t, exec i s = .next t
      ∧ (∀ k : Fin 64, t.newRt[k] = (if k = m then 0 else rtStagedAt p s k)
          ∧ t.rt[k] = if k < m then rtStagedAt p s k else 0)
      ∧ t.rtLength.toNat = m.val ∧ t.nextRtSegment = 0
      ∧ t.isValid .rt = true
      ∧ t.raised .rt = (rtToggles p s || decide (t.rt ≠ s.rt ∨ t.rtLength ≠ s.rtLength))
      ∧ t.rtAbFlag = p.b.getLsbD 4
      ∧ GroupFrame [.rtAbFlag, .newRt, .rt, .rtLength, .nextRtSegment] [.rt] s t

/-! ### Group 3 -/

/-- R221: the ODA table after a `G3A` group of any of the four rows, over the list of its rows. The premises are of `State.Inv`. -/
def Obligations.OdaRowIsAddedOrReplaced : Prop :=
  ∀ (i : Instr) (p : GroupBlocks) (s : State), encodeGroup i = some p → gidOf p = 3 → verBOf p = false → s.created = true →
    s.rdsOda.size ≤ 18 → (s.rdsOda.rows.map fun r => (r.groupId, r.version)).Nodup →
    let row : OdaRow := ⟨p.b.extractLsb' 1 4, if p.b.getLsbD 0 then .b else .a, p.d⟩
    let known := ∃ r ∈ s.rdsOda.rows, r.groupId = row.groupId ∧ r.version = row.version
    ∃ t, exec i s = .next t
      ∧ (known → t.rdsOda.rows =
            s.rdsOda.rows.map (fun r => if r.groupId = row.groupId ∧ r.version = row.version then row else r)
          ∧ t.decodeInformation = s.decodeInformation)
      ∧ (¬known → s.rdsOda.rows.length < 18 →
          t.rdsOda.rows = s.rdsOda.rows ++ [row] ∧ t.decodeInformation = s.decodeInformation ||| 1)
      ∧ (¬known → s.rdsOda.rows.length = 18 → t.rdsOda = s.rdsOda ∧ t.decodeInformation = s.decodeInformation)
      ∧ t.raised .oda = decide (t.rdsOda.rows ≠ s.rdsOda.rows) ∧ t.isValid .oda = s.isValid .oda

/-- R222 to R226: a `G3A` group with a TMC AID is staged, and decoded when it equals the one staged before: variant 0, variant 1 with
its timing fields only in enhanced mode, nothing for variants 2 and 3; and the frame. -/
def Obligations.TmcSystemGroupIsDecodedTwice : Prop :=
  ∀ (i : Instr) (p : GroupBlocks) (s : State), Encodes i p → gidOf p = 3 → verBOf p = false → (p.d = 0xCD46 ∨ p.d = 0xCD47) →
    s.created = true →
    let hit := s.prevTmcSysGroup = Group.ofBlocks p
    let variant := p.c.extractLsb' 14 2
    let sys0 : TmcSys := { s.tmcSys with
      ltn := p.c.extractLsb' 6 6, afi := p.c.getLsbD 5, enhancedMode := p.c.getLsbD 4, mgs := p.c.extractLsb' 0 4 }
    let sys1 : TmcSys := { s.tmcSys with
      gap := p.c.extractLsb' 12 2
      sid := p.c.extractLsb' 6 6
      tA := if s.tmcSys.enhancedMode then p.c.extractLsb' 4 2 else s.tmcSys.tA
      tW := if s.tmcSys.enhancedMode then p.c.extractLsb' 2 2 else s.tmcSys.tW
      tD := if s.tmcSys.enhancedMode then p.c.extractLsb' 0 2 else s.tmcSys.tD }
    ∃ t, exec i s = .next t
      ∧ t.prevTmcSysGroup = Group.ofBlocks p
      ∧ (hit → variant = 0 → t.tmcSys = sys0 ∧ Published .tmcSys (sys0 != s.tmcSys) t)
      ∧ (hit → variant = 1 → t.tmcSys = sys1 ∧ Published .tmcSys (sys1 != s.tmcSys) t)
      ∧ (¬hit ∨ (variant ≠ 0 ∧ variant ≠ 1) → t.tmcSys = s.tmcSys ∧ Quiet .tmcSys s t)
      ∧ GroupFrame [.rdsOda, .decodeInformation, .prevTmcSysGroup, .tmcSys] [.oda, .tmcSys] s t

/-- A `G3A` group with another AID is an ODA row only (R220, R101). -/
def Obligations.OtherOdaTouchesTheTableOnly : Prop :=
  ∀ (i : Instr) (p : GroupBlocks) (s : State), Encodes i p → gidOf p = 3 → verBOf p = false → p.d ≠ 0xCD46 → p.d ≠ 0xCD47 →
    s.created = true →
    ∃ t, exec i s = .next t ∧ GroupFrame [.rdsOda, .decodeInformation] [.oda] s t

/-! ### Group 4 -/

/-- R241, R242: the MJD of `G4A` is always staged, and only a group whose MJD was staged before writes the time; and the frame. -/
def Obligations.ClockTimeNeedsTheSameMjdTwice : Prop :=
  ∀ (i : Instr) (p : GroupBlocks) (s : State), encodeGroup i = some p → gidOf p = 4 → verBOf p = false → s.created = true →
    let mjd : BitVec 17 := p.b.extractLsb' 0 2 ++ p.c.extractLsb' 1 15
    ∃ t, exec i s = .next t ∧ t.newMjd = mjd
      ∧ (mjd ≠ s.newMjd → t.time = s.time ∧ Quiet .time s t)
      ∧ (mjd = s.newMjd → Published .time (t.time != s.time) t)
      ∧ GroupFrame [.newMjd, .time] [.time] s t

/-- R243, R244, R245, R247: the local time and date that a hit writes: the time of day from the minutes, and the date by the decimal
form of the conversion, on the MJD with the day carry added; and its bits. -/
def Obligations.ClockTimeIsLocalTimeAndDate : Prop :=
  ∀ (i : Instr) (p : GroupBlocks) (s : State), encodeGroup i = some p → gidOf p = 4 → verBOf p = false → s.created = true →
    s.newMjd = p.b.extractLsb' 0 2 ++ p.c.extractLsb' 1 15 →
    let mjd : Int := (p.b.extractLsb' 0 2 ++ p.c.extractLsb' 1 15).toNat
    let hour : Int := (p.c.extractLsb' 0 1 ++ p.d.extractLsb' 12 4).toNat
    let minute : Int := (p.d.extractLsb' 6 6).toNat
    let mag : Int := (p.d.extractLsb' 0 5).toNat
    let off : Int := if p.d.getLsbD 5 then -30 * mag else 30 * mag
    let m : Int := mjd + ⌊((60 * hour + minute + off : Int) : Rat) / 1440⌋
    ∃ t, exec i s = .next t
      ∧ 1440 * m + 60 * t.time.hour + t.time.minute = 1440 * mjd + 60 * hour + minute + off
      ∧ 0 ≤ t.time.hour ∧ t.time.hour ≤ 23 ∧ 0 ≤ t.time.minute ∧ t.time.minute ≤ 59 ∧ t.time.second = 0
      ∧ t.time.gmtoff = 60 * off
      ∧ t.time.year = decimalY m + decimalK m
      ∧ t.time.month = decimalM m - 1 - 12 * decimalK m
      ∧ t.time.day = decimalD m
      ∧ Published .time (t.time != s.time) t

/-- The ranges R245 and R246 give for the record a hit writes. -/
def Obligations.ClockTimeStaysInRange : Prop :=
  ∀ (i : Instr) (p : GroupBlocks) (s : State), encodeGroup i = some p → gidOf p = 4 → verBOf p = false → s.created = true →
    s.newMjd = p.b.extractLsb' 0 2 ++ p.c.extractLsb' 1 15 →
    ∃ t, exec i s = .next t ∧ 1 ≤ t.time.month ∧ t.time.month ≤ 12 ∧ 1 ≤ t.time.day ∧ t.time.day ≤ 31
      ∧ -55800 ≤ t.time.gmtoff ∧ t.time.gmtoff ≤ 55800

/-! ### Group 8 -/

/-- R261: the gate, for an 8A group of any of the five forms. A group that it does not let through is staged and arms it, and nothing
else happens; one that it lets through disarms it and leaves the staged copy. -/
def Obligations.TmcGateStagesOrDisarms : Prop :=
  ∀ (i : Instr) (p : GroupBlocks) (s : State), encodeGroup i = some p → gidOf p = 8 → verBOf p = false → s.created = true →
    let hit := s.prevTmcArmed = true ∧ s.prevTmcGroup = Group.ofBlocks p
    ∃ t, exec i s = .next t
      ∧ (¬hit → t.prevTmcGroup = Group.ofBlocks p ∧ t.prevTmcArmed = true ∧ GroupFrame [.prevTmcGroup, .prevTmcArmed] [] s t)
      ∧ (hit → t.prevTmcGroup = s.prevTmcGroup ∧ t.prevTmcArmed = false)

/-- R265: a tuning-information group that hits disarms the gate and does nothing else. -/
def Obligations.TuningInformationOnlyDisarms : Prop :=
  ∀ (i : Instr) (p : GroupBlocks) (s : State), encodeGroup i = some p → gidOf p = 8 → verBOf p = false → s.created = true →
    s.prevTmcArmed = true → s.prevTmcGroup = Group.ofBlocks p → p.b.getLsbD 3 = true →
    ∃ t, exec i s = .next t ∧ t.prevTmcArmed = false
      ∧ GroupFrame [.prevTmcArmed] [] s t

/-- R263, R264: a single-group message that hits is published whole, and the multi-group registers are not touched. -/
def Obligations.SingleGroupMessageIsPublished : Prop :=
  ∀ (i : Instr) (p : GroupBlocks) (s : State), encodeGroup i = some p → gidOf p = 8 → verBOf p = false → s.created = true →
    s.prevTmcArmed = true → s.prevTmcGroup = Group.ofBlocks p → p.b.getLsbD 3 = false → p.b.getLsbD 4 = true →
    let msg : TmcMsg :=
      { dp := p.b.extractLsb' 0 3, followDiversion := p.c.getLsbD 15, negDirection := p.c.getLsbD 14,
        extent := p.c.extractLsb' 11 3, event := p.c.extractLsb' 0 11, location := p.d, length := 0,
        additional := ⟨0, Vector.replicate 28 ⟨0, 0⟩⟩ }
    ∃ t, exec i s = .next t ∧ t.tmcMsg = msg ∧ t.prevTmcArmed = false
      ∧ Published .tmcSg (msg != s.tmcMsg) t ∧ t.isValid .tmcMg = false ∧ t.raised .tmcMg = false
      ∧ GroupFrame [.tmcMsg, .prevTmcArmed] [.tmcSg, .tmcMg] s t

/-- R266: a first group that hits begins a pending message; no public register but the common ones changes. -/
def Obligations.FirstGroupBeginsAMessage : Prop :=
  ∀ (i : Instr) (p : GroupBlocks) (s : State), encodeGroup i = some p → gidOf p = 8 → verBOf p = false → s.created = true →
    s.prevTmcArmed = true → s.prevTmcGroup = Group.ofBlocks p → p.b.getLsbD 3 = false → p.b.getLsbD 4 = false →
    p.c.getLsbD 15 = true →
    ∃ t, exec i s = .next t
      ∧ t.newTmcMsg = { dp := 0, followDiversion := p.c.getLsbD 15, negDirection := p.c.getLsbD 14,
                        extent := p.c.extractLsb' 11 3, event := p.c.extractLsb' 0 11, location := p.d, length := 0 }
      ∧ t.continuityId = p.b.extractLsb' 0 3 ∧ t.grpSeqId = 0 ∧ (∀ k : Fin 4, t.optionalTmc[k] = 0) ∧ t.prevTmcArmed = false
      ∧ GroupFrame [.newTmcMsg, .continuityId, .grpSeqId, .optionalTmc, .prevTmcArmed] [] s t

/-- R267: a second group that hits, with the continuity index, records its sequence value and window 0, and completes the message
(R272) when the value is 0; with another index it changes nothing but the gate. -/
def Obligations.SecondGroupBringsWindowZero : Prop :=
  ∀ (i : Instr) (p : GroupBlocks) (s : State), encodeGroup i = some p → gidOf p = 8 → verBOf p = false → s.created = true →
    s.prevTmcArmed = true → s.prevTmcGroup = Group.ofBlocks p → p.b.getLsbD 3 = false → p.b.getLsbD 4 = false →
    p.c.getLsbD 15 = false → p.c.getLsbD 14 = true →
    let gsi := p.c.extractLsb' 12 2
    ∃ t, exec i s = .next t ∧ t.prevTmcArmed = false
      ∧ (p.b.extractLsb' 0 3 = s.continuityId →
          t.grpSeqId = gsi ∧ t.newTmcMsg = { s.newTmcMsg with length := 1 }
          ∧ (∀ k : Fin 4, t.optionalTmc[k] = if k = 0 then windowOf p else s.optionalTmc[k])
          ∧ (gsi = 0 → t.tmcMsg = ⟨t.newTmcMsg, unpack 1 t.optionalTmc⟩ ∧ Published .tmcMg (t.tmcMsg != s.tmcMsg) t
              ∧ t.isValid .tmcSg = false ∧ t.raised .tmcSg = false)
          ∧ (gsi ≠ 0 → t.tmcMsg = s.tmcMsg ∧ Quiet .tmcMg s t ∧ Quiet .tmcSg s t))
      ∧ (p.b.extractLsb' 0 3 ≠ s.continuityId →
          GroupFrame [.prevTmcArmed] [] s t)
      ∧ GroupFrame [.newTmcMsg, .grpSeqId, .optionalTmc, .tmcMsg, .prevTmcArmed] [.tmcSg, .tmcMg] s t

/-- R268: a subsequent group that hits, with the continuity index, the next lower sequence value and room, appends a window, and
completes the message (R272) when the value is 0; any other changes nothing but the gate. -/
def Obligations.SubsequentGroupAppendsAWindow : Prop :=
  ∀ (i : Instr) (p : GroupBlocks) (s : State), encodeGroup i = some p → gidOf p = 8 → verBOf p = false → s.created = true →
    s.prevTmcArmed = true → s.prevTmcGroup = Group.ofBlocks p → p.b.getLsbD 3 = false → p.b.getLsbD 4 = false →
    p.c.getLsbD 15 = false → p.c.getLsbD 14 = false →
    let gsi := p.c.extractLsb' 12 2
    let fits := p.b.extractLsb' 0 3 = s.continuityId ∧ 1 ≤ s.grpSeqId.toNat ∧ gsi.toNat + 1 = s.grpSeqId.toNat
      ∧ s.newTmcMsg.length.toNat < 4
    ∃ t, exec i s = .next t ∧ t.prevTmcArmed = false
      ∧ (fits →
          t.grpSeqId = gsi ∧ t.newTmcMsg = { s.newTmcMsg with length := s.newTmcMsg.length + 1 }
          ∧ (∀ k : Fin 4, t.optionalTmc[k] = if k.val = s.newTmcMsg.length.toNat then windowOf p else s.optionalTmc[k])
          ∧ (gsi = 0 → t.tmcMsg = ⟨t.newTmcMsg, unpack t.newTmcMsg.length.toNat t.optionalTmc⟩
              ∧ Published .tmcMg (t.tmcMsg != s.tmcMsg) t ∧ t.isValid .tmcSg = false ∧ t.raised .tmcSg = false)
          ∧ (gsi ≠ 0 → t.tmcMsg = s.tmcMsg ∧ Quiet .tmcMg s t ∧ Quiet .tmcSg s t))
      ∧ (¬fits → GroupFrame [.prevTmcArmed] [] s t)
      ∧ GroupFrame [.newTmcMsg, .grpSeqId, .optionalTmc, .tmcMsg, .prevTmcArmed] [.tmcSg, .tmcMg] s t

/-- R270, R271: the optional fields of `n` windows are the records of the stream of their usable bits, parsed as a list of bits; the
elements beyond them are zero (R272). -/
def Obligations.OptionalFieldsAreTheRecordsOfTheStream : Prop :=
  ∀ (n : Nat) (w : Vector (BitVec 32) 4), 1 ≤ n → n ≤ 4 →
    let records := tmcRecords 28 (streamBits n w)
    (unpack n w).size = records.length ∧ records.length ≤ 28
      ∧ ∀ k : Fin 28, (unpack n w).fields[k] = records.getD k.val ⟨0, 0⟩

/-! ### Group 10 -/

/-- R301, R302, R303: a `G10A` group: the toggle clears, the half is compared whole with the staged one, and the name is published
when both halves are valid; and the frame. -/
def Obligations.PtynHalvesAreStagedAndPublished : Prop :=
  ∀ (i : Instr) (p : GroupBlocks) (s : State), encodeGroup i = some p → gidOf p = 10 → verBOf p = false → s.created = true →
    ∃ t, exec i s = .next t
      ∧ t.ptynAbFlag = p.b.getLsbD 4
      ∧ (∀ h : Fin 2,
          t.newPtyn[h] = (if h = ptynHalfOf p then ptynCharsOf p else ptynStaged p s h)
          ∧ t.newPtynValid[h] =
              if h = ptynHalfOf p then decide (ptynCharsOf p = ptynStaged p s h) else s.newPtynValid[h] && !ptynToggles p s)
      ∧ (t.newPtynValid[0] = true ∧ t.newPtynValid[1] = true →
          t.ptyn = t.newPtyn[0] ++ t.newPtyn[1] ∧ Published .ptyn (ptynToggles p s || t.ptyn != ptynPublic p s) t)
      ∧ (¬(t.newPtynValid[0] = true ∧ t.newPtynValid[1] = true) →
          t.ptyn = ptynPublic p s ∧ t.isValid .ptyn = (s.isValid .ptyn && !ptynToggles p s) ∧ t.raised .ptyn = ptynToggles p s)
      ∧ GroupFrame [.ptynAbFlag, .ptyn, .newPtyn, .newPtynValid] [.ptyn] s t

/-! ### The whole machine -/

/-- Every step keeps the invariant of the machine, from every state that meets it. -/
def Obligations.StepKeepsTheInvariant : Prop := ∀ s t : State, s.Inv → step s = .next t → t.Inv

/-- The mask of an `ADD` says exactly which public values it changed (R46 (5), R151), from every state that meets the invariant; the two
TMC bits stand for one value. For the radio text this is the reading of log 10. -/
def Obligations.MaskReportsTheChanges : Prop :=
  ∀ (data : Word) (block : Byte) (s t : State), s.Inv → exec (.add data block) s = .next t →
    (∀ f : Field, f ≠ .tmcSg → f ≠ .tmcMg → (t.raised f = true ↔ ¬f.sameValue s t))
    ∧ ((t.raised .tmcSg = true ∨ t.raised .tmcMg = true) ↔ s.tmcMsg ≠ t.tmcMsg)
    ∧ ¬(t.raised .tmcSg = true ∧ t.raised .tmcMg = true)

/-- R32: a bit of `valid_fields` is cleared only by reset and `CREATE`, or by the three events the rule names. -/
def Obligations.ValidBitsAreClearedOnlyByNamedEvents : Prop :=
  ∀ (i : Instr) (s t : State) (f : Field), exec i s = .next t → (∀ b, i ≠ .create b) → (∀ b, i ≠ .reset b) →
    s.isValid f = true → t.isValid f = false →
      (f = .rt ∧ t.rtAbFlag ≠ s.rtAbFlag) ∨ (f = .ptyn ∧ t.ptynAbFlag ≠ s.ptynAbFlag)
      ∨ (f = .tmcSg ∧ t.isValid .tmcMg = true) ∨ (f = .tmcMg ∧ t.isValid .tmcSg = true)

/-- R35: `CREATE` sets the configuration bit, no other operation writes it, and none depends on it but the two that show it. That
`CREATE` answers in every state is the model's reading (log 5). -/
def Obligations.ConfigurationBitHasNoEffect : Prop :=
  (∀ (b : Bool) (s : State), ∃ t, exec (.create b) s = .next t ∧ t.isRbds = b)
  ∧ ∀ (i : Instr) (s t : State) (b : Bool), (∀ c, i ≠ .create c) → exec i s = .next t →
    t.isRbds = s.isRbds
    ∧ (i ≠ .read .isRbds → i ≠ .lookupIndex → exec i { s with isRbds := b } = .next { t with isRbds := b })

/-- A third reception in a row of the same group raises no bit of the fields under the two-reception rule (R150). -/
def Obligations.ThirdReceptionRaisesNothing : Prop :=
  ∀ (i : Instr) (p : GroupBlocks) (s t u v : State), encodeGroup i = some p →
    exec i s = .next t → exec i t = .next u → exec i u = .next v →
    ∀ f ∈ [Field.pi, .pty, .ecc, .lc, .time, .tmcSys, .tmcSg, .tmcMg], v.raised f = false
end

