-- ==== Sys2Proof/Laws/Fields.lean ====
section
/-! SUPPORT. What each field of a composed block reads back as, and that composing the fields of a block gives the block: one lemma per
field and composition of `Decode.lean`. -/

namespace Sys2Proof

theorem bit_ofBit (b : Bool) : (Version.ofBit b).bit = b := by cases b <;> rfl

theorem ofBit_bit (v : Version) : Version.ofBit v.bit = v := by cases v <;> rfl

/-! ### Block B -/

theorem blockB_gid (gid : BitVec 4) (ver : Version) (tp : Bool) (pty low : BitVec 5) :
    (blockB gid ver tp pty low).extractLsb' 12 4 = gid := by
  apply BitVec.eq_of_getLsbD_eq; intro k hk
  simp only [blockB, BitVec.getLsbD_extractLsb', BitVec.getLsbD_append, BitVec.getLsbD_ofBool]
  interval_cases k <;> simp

theorem blockB_ver (gid : BitVec 4) (ver : Version) (tp : Bool) (pty low : BitVec 5) :
    (blockB gid ver tp pty low).getLsbD 11 = ver.bit := by
  simp only [blockB, BitVec.getLsbD_extractLsb', BitVec.getLsbD_append, BitVec.getLsbD_ofBool]; simp

theorem blockB_tp (gid : BitVec 4) (ver : Version) (tp : Bool) (pty low : BitVec 5) :
    (blockB gid ver tp pty low).getLsbD 10 = tp := by
  simp only [blockB, BitVec.getLsbD_extractLsb', BitVec.getLsbD_append, BitVec.getLsbD_ofBool]; simp

theorem blockB_pty (gid : BitVec 4) (ver : Version) (tp : Bool) (pty low : BitVec 5) :
    (blockB gid ver tp pty low).extractLsb' 5 5 = pty := by
  apply BitVec.eq_of_getLsbD_eq; intro k hk
  simp only [blockB, BitVec.getLsbD_extractLsb', BitVec.getLsbD_append, BitVec.getLsbD_ofBool]
  interval_cases k <;> simp

theorem blockB_low (gid : BitVec 4) (ver : Version) (tp : Bool) (pty low : BitVec 5) (start len : Nat) (h : start + len ≤ 5) :
    (blockB gid ver tp pty low).extractLsb' start len = low.extractLsb' start len := by
  apply BitVec.eq_of_getLsbD_eq; intro k hk
  have : start + k < 5 := by omega
  simp only [blockB, BitVec.getLsbD_extractLsb', BitVec.getLsbD_append, this, hk, decide_true, Bool.true_and, if_true, cond_true]

theorem blockB_low_all (gid : BitVec 4) (ver : Version) (tp : Bool) (pty low : BitVec 5) : (blockB gid ver tp pty low).extractLsb' 0 5 = low := by
  rw [blockB_low _ _ _ _ _ 0 5 (by decide)]; exact BitVec.extractLsb'_eq_self

theorem blockB_low_bit (gid : BitVec 4) (ver : Version) (tp : Bool) (pty low : BitVec 5) (k : Nat) (h : k < 5) : (blockB gid ver tp pty low).getLsbD k = low.getLsbD k := by
  simp only [blockB, BitVec.getLsbD_append, h, decide_true, if_true, cond_true]

theorem lowG0_ta (ta ms dibit : Bool) (seg : BitVec 2) :
    (lowG0 ta ms dibit seg).getLsbD 4 = ta := by
  simp only [lowG0, BitVec.getLsbD_extractLsb', BitVec.getLsbD_append, BitVec.getLsbD_ofBool]; simp

theorem lowG0_ms (ta ms dibit : Bool) (seg : BitVec 2) :
    (lowG0 ta ms dibit seg).getLsbD 3 = ms := by
  simp only [lowG0, BitVec.getLsbD_extractLsb', BitVec.getLsbD_append, BitVec.getLsbD_ofBool]; simp

theorem lowG0_dibit (ta ms dibit : Bool) (seg : BitVec 2) :
    (lowG0 ta ms dibit seg).getLsbD 2 = dibit := by
  simp only [lowG0, BitVec.getLsbD_extractLsb', BitVec.getLsbD_append, BitVec.getLsbD_ofBool]; simp

theorem lowG0_seg (ta ms dibit : Bool) (seg : BitVec 2) :
    (lowG0 ta ms dibit seg).extractLsb' 0 2 = seg := by
  apply BitVec.eq_of_getLsbD_eq; intro k hk
  simp only [lowG0, BitVec.getLsbD_extractLsb', BitVec.getLsbD_append, BitVec.getLsbD_ofBool]
  interval_cases k <;> simp

theorem lowG2_ab (ab : Bool) (seg : BitVec 4) :
    (lowG2 ab seg).getLsbD 4 = ab := by
  simp only [lowG2, BitVec.getLsbD_extractLsb', BitVec.getLsbD_append, BitVec.getLsbD_ofBool]; simp

theorem lowG2_seg (ab : Bool) (seg : BitVec 4) :
    (lowG2 ab seg).extractLsb' 0 4 = seg := by
  apply BitVec.eq_of_getLsbD_eq; intro k hk
  simp only [lowG2, BitVec.getLsbD_extractLsb', BitVec.getLsbD_append, BitVec.getLsbD_ofBool]
  interval_cases k <;> simp

theorem lowG3_gid (gid : BitVec 4) (ver : Version) :
    (lowG3 gid ver).extractLsb' 1 4 = gid := by
  apply BitVec.eq_of_getLsbD_eq; intro k hk
  simp only [lowG3, BitVec.getLsbD_extractLsb', BitVec.getLsbD_append, BitVec.getLsbD_ofBool]
  interval_cases k <;> simp

theorem lowG3_ver (gid : BitVec 4) (ver : Version) :
    (lowG3 gid ver).getLsbD 0 = ver.bit := by
  simp only [lowG3, BitVec.getLsbD_extractLsb', BitVec.getLsbD_append, BitVec.getLsbD_ofBool]; simp

theorem lowG4_xB (xB : BitVec 3) (mjd : BitVec 17) :
    (lowG4 xB mjd).extractLsb' 2 3 = xB := by
  apply BitVec.eq_of_getLsbD_eq; intro k hk
  simp only [lowG4, BitVec.getLsbD_extractLsb', BitVec.getLsbD_append, BitVec.getLsbD_ofBool]
  interval_cases k <;> simp

theorem lowG4_mjd (xB : BitVec 3) (mjd : BitVec 17) :
    (lowG4 xB mjd).extractLsb' 0 2 = mjd.extractLsb' 15 2 := by
  apply BitVec.eq_of_getLsbD_eq; intro k hk
  simp only [lowG4, BitVec.getLsbD_extractLsb', BitVec.getLsbD_append, BitVec.getLsbD_ofBool]
  interval_cases k <;> simp

theorem lowG8_sg (sg ti : Bool) (x3 : BitVec 3) :
    (lowG8 sg ti x3).getLsbD 4 = sg := by
  simp only [lowG8, BitVec.getLsbD_extractLsb', BitVec.getLsbD_append, BitVec.getLsbD_ofBool]; simp

theorem lowG8_ti (sg ti : Bool) (x3 : BitVec 3) :
    (lowG8 sg ti x3).getLsbD 3 = ti := by
  simp only [lowG8, BitVec.getLsbD_extractLsb', BitVec.getLsbD_append, BitVec.getLsbD_ofBool]; simp

theorem lowG8_x3 (sg ti : Bool) (x3 : BitVec 3) :
    (lowG8 sg ti x3).extractLsb' 0 3 = x3 := by
  apply BitVec.eq_of_getLsbD_eq; intro k hk
  simp only [lowG8, BitVec.getLsbD_extractLsb', BitVec.getLsbD_append, BitVec.getLsbD_ofBool]
  interval_cases k <;> simp

theorem lowG10_ab (ab : Bool) (xB : BitVec 3) (seg : Bool) :
    (lowG10 ab xB seg).getLsbD 4 = ab := by
  simp only [lowG10, BitVec.getLsbD_extractLsb', BitVec.getLsbD_append, BitVec.getLsbD_ofBool]; simp

theorem lowG10_xB (ab : Bool) (xB : BitVec 3) (seg : Bool) :
    (lowG10 ab xB seg).extractLsb' 1 3 = xB := by
  apply BitVec.eq_of_getLsbD_eq; intro k hk
  simp only [lowG10, BitVec.getLsbD_extractLsb', BitVec.getLsbD_append, BitVec.getLsbD_ofBool]
  interval_cases k <;> simp

theorem lowG10_seg (ab : Bool) (xB : BitVec 3) (seg : Bool) :
    (lowG10 ab xB seg).getLsbD 0 = seg := by
  simp only [lowG10, BitVec.getLsbD_extractLsb', BitVec.getLsbD_append, BitVec.getLsbD_ofBool]; simp


/-! ### Blocks C and D -/

theorem bytePair_msb (msb lsb : Byte) :
    (bytePair msb lsb).extractLsb' 8 8 = msb := by
  apply BitVec.eq_of_getLsbD_eq; intro k hk
  simp only [bytePair, BitVec.getLsbD_extractLsb', BitVec.getLsbD_append, BitVec.getLsbD_ofBool]
  interval_cases k <;> simp

theorem bytePair_lsb (msb lsb : Byte) :
    (bytePair msb lsb).extractLsb' 0 8 = lsb := by
  apply BitVec.eq_of_getLsbD_eq; intro k hk
  simp only [bytePair, BitVec.getLsbD_extractLsb', BitVec.getLsbD_append, BitVec.getLsbD_ofBool]
  interval_cases k <;> simp

theorem blockC1_xC15 (xC15 : Bool) (variant : BitVec 3) (rest : BitVec 12) :
    (blockC1 xC15 variant rest).getLsbD 15 = xC15 := by
  simp only [blockC1, BitVec.getLsbD_extractLsb', BitVec.getLsbD_append, BitVec.getLsbD_ofBool]; simp

theorem blockC1_variant (xC15 : Bool) (variant : BitVec 3) (rest : BitVec 12) :
    (blockC1 xC15 variant rest).extractLsb' 12 3 = variant := by
  apply BitVec.eq_of_getLsbD_eq; intro k hk
  simp only [blockC1, BitVec.getLsbD_extractLsb', BitVec.getLsbD_append, BitVec.getLsbD_ofBool]
  interval_cases k <;> simp

theorem blockC1_rest (xC15 : Bool) (variant : BitVec 3) (rest : BitVec 12) :
    (blockC1 xC15 variant rest).extractLsb' 0 12 = rest := by
  apply BitVec.eq_of_getLsbD_eq; intro k hk
  simp only [blockC1, BitVec.getLsbD_extractLsb', BitVec.getLsbD_append, BitVec.getLsbD_ofBool]
  interval_cases k <;> simp

theorem blockC1_xC (xC15 : Bool) (variant : BitVec 3) (xC : BitVec 4) (x : Byte) :
    (blockC1 xC15 variant (xC ++ x)).extractLsb' 8 4 = xC := by
  apply BitVec.eq_of_getLsbD_eq; intro k hk
  simp only [blockC1, BitVec.getLsbD_extractLsb', BitVec.getLsbD_append, BitVec.getLsbD_ofBool]
  interval_cases k <;> simp

theorem blockC1_byte (xC15 : Bool) (variant : BitVec 3) (xC : BitVec 4) (x : Byte) :
    (blockC1 xC15 variant (xC ++ x)).extractLsb' 0 8 = x := by
  apply BitVec.eq_of_getLsbD_eq; intro k hk
  simp only [blockC1, BitVec.getLsbD_extractLsb', BitVec.getLsbD_append, BitVec.getLsbD_ofBool]
  interval_cases k <;> simp

theorem blockC3v0_variant (xC : BitVec 2) (ltn : BitVec 6) (afi enhancedMode : Bool) (mgs : BitVec 4) :
    (blockC3v0 xC ltn afi enhancedMode mgs).extractLsb' 14 2 = 0 := by
  apply BitVec.eq_of_getLsbD_eq; intro k hk
  simp only [blockC3v0, BitVec.getLsbD_extractLsb', BitVec.getLsbD_append, BitVec.getLsbD_ofBool]
  interval_cases k <;> simp

theorem blockC3v0_xC (xC : BitVec 2) (ltn : BitVec 6) (afi enhancedMode : Bool) (mgs : BitVec 4) :
    (blockC3v0 xC ltn afi enhancedMode mgs).extractLsb' 12 2 = xC := by
  apply BitVec.eq_of_getLsbD_eq; intro k hk
  simp only [blockC3v0, BitVec.getLsbD_extractLsb', BitVec.getLsbD_append, BitVec.getLsbD_ofBool]
  interval_cases k <;> simp

theorem blockC3v0_ltn (xC : BitVec 2) (ltn : BitVec 6) (afi enhancedMode : Bool) (mgs : BitVec 4) :
    (blockC3v0 xC ltn afi enhancedMode mgs).extractLsb' 6 6 = ltn := by
  apply BitVec.eq_of_getLsbD_eq; intro k hk
  simp only [blockC3v0, BitVec.getLsbD_extractLsb', BitVec.getLsbD_append, BitVec.getLsbD_ofBool]
  interval_cases k <;> simp

theorem blockC3v0_afi (xC : BitVec 2) (ltn : BitVec 6) (afi enhancedMode : Bool) (mgs : BitVec 4) :
    (blockC3v0 xC ltn afi enhancedMode mgs).getLsbD 5 = afi := by
  simp only [blockC3v0, BitVec.getLsbD_extractLsb', BitVec.getLsbD_append, BitVec.getLsbD_ofBool]; simp

theorem blockC3v0_enhancedMode (xC : BitVec 2) (ltn : BitVec 6) (afi enhancedMode : Bool) (mgs : BitVec 4) :
    (blockC3v0 xC ltn afi enhancedMode mgs).getLsbD 4 = enhancedMode := by
  simp only [blockC3v0, BitVec.getLsbD_extractLsb', BitVec.getLsbD_append, BitVec.getLsbD_ofBool]; simp

theorem blockC3v0_mgs (xC : BitVec 2) (ltn : BitVec 6) (afi enhancedMode : Bool) (mgs : BitVec 4) :
    (blockC3v0 xC ltn afi enhancedMode mgs).extractLsb' 0 4 = mgs := by
  apply BitVec.eq_of_getLsbD_eq; intro k hk
  simp only [blockC3v0, BitVec.getLsbD_extractLsb', BitVec.getLsbD_append, BitVec.getLsbD_ofBool]
  interval_cases k <;> simp

theorem blockC3v1_variant (gap : BitVec 2) (sid : BitVec 6) (tA tW tD : BitVec 2) :
    (blockC3v1 gap sid tA tW tD).extractLsb' 14 2 = 1 := by
  apply BitVec.eq_of_getLsbD_eq; intro k hk
  simp only [blockC3v1, BitVec.getLsbD_extractLsb', BitVec.getLsbD_append, BitVec.getLsbD_ofBool]
  interval_cases k <;> simp

theorem blockC3v1_gap (gap : BitVec 2) (sid : BitVec 6) (tA tW tD : BitVec 2) :
    (blockC3v1 gap sid tA tW tD).extractLsb' 12 2 = gap := by
  apply BitVec.eq_of_getLsbD_eq; intro k hk
  simp only [blockC3v1, BitVec.getLsbD_extractLsb', BitVec.getLsbD_append, BitVec.getLsbD_ofBool]
  interval_cases k <;> simp

theorem blockC3v1_sid (gap : BitVec 2) (sid : BitVec 6) (tA tW tD : BitVec 2) :
    (blockC3v1 gap sid tA tW tD).extractLsb' 6 6 = sid := by
  apply BitVec.eq_of_getLsbD_eq; intro k hk
  simp only [blockC3v1, BitVec.getLsbD_extractLsb', BitVec.getLsbD_append, BitVec.getLsbD_ofBool]
  interval_cases k <;> simp

theorem blockC3v1_tA (gap : BitVec 2) (sid : BitVec 6) (tA tW tD : BitVec 2) :
    (blockC3v1 gap sid tA tW tD).extractLsb' 4 2 = tA := by
  apply BitVec.eq_of_getLsbD_eq; intro k hk
  simp only [blockC3v1, BitVec.getLsbD_extractLsb', BitVec.getLsbD_append, BitVec.getLsbD_ofBool]
  interval_cases k <;> simp

theorem blockC3v1_tW (gap : BitVec 2) (sid : BitVec 6) (tA tW tD : BitVec 2) :
    (blockC3v1 gap sid tA tW tD).extractLsb' 2 2 = tW := by
  apply BitVec.eq_of_getLsbD_eq; intro k hk
  simp only [blockC3v1, BitVec.getLsbD_extractLsb', BitVec.getLsbD_append, BitVec.getLsbD_ofBool]
  interval_cases k <;> simp

theorem blockC3v1_tD (gap : BitVec 2) (sid : BitVec 6) (tA tW tD : BitVec 2) :
    (blockC3v1 gap sid tA tW tD).extractLsb' 0 2 = tD := by
  apply BitVec.eq_of_getLsbD_eq; intro k hk
  simp only [blockC3v1, BitVec.getLsbD_extractLsb', BitVec.getLsbD_append, BitVec.getLsbD_ofBool]
  interval_cases k <;> simp

theorem blockC3x_variant (variant : BitVec 2) (xC : BitVec 14) :
    (variant ++ xC).extractLsb' 14 2 = variant := by
  apply BitVec.eq_of_getLsbD_eq; intro k hk
  simp only [BitVec.getLsbD_extractLsb', BitVec.getLsbD_append, BitVec.getLsbD_ofBool]
  interval_cases k <;> simp

theorem blockC3x_xC (variant : BitVec 2) (xC : BitVec 14) :
    (variant ++ xC).extractLsb' 0 14 = xC := by
  apply BitVec.eq_of_getLsbD_eq; intro k hk
  simp only [BitVec.getLsbD_extractLsb', BitVec.getLsbD_append, BitVec.getLsbD_ofBool]
  interval_cases k <;> simp

theorem blockC4_mjd (mjd : BitVec 17) (hour : BitVec 5) :
    (blockC4 mjd hour).extractLsb' 1 15 = mjd.extractLsb' 0 15 := by
  apply BitVec.eq_of_getLsbD_eq; intro k hk
  simp only [blockC4, BitVec.getLsbD_extractLsb', BitVec.getLsbD_append, BitVec.getLsbD_ofBool]
  interval_cases k <;> simp

theorem blockC4_hour (mjd : BitVec 17) (hour : BitVec 5) :
    (blockC4 mjd hour).extractLsb' 0 1 = hour.extractLsb' 4 1 := by
  apply BitVec.eq_of_getLsbD_eq; intro k hk
  simp only [blockC4, BitVec.getLsbD_extractLsb', BitVec.getLsbD_append, BitVec.getLsbD_ofBool]
  interval_cases k <;> simp

theorem blockD4_hour (hour : BitVec 5) (minute : BitVec 6) (sign : Bool) (mag : BitVec 5) :
    (blockD4 hour minute sign mag).extractLsb' 12 4 = hour.extractLsb' 0 4 := by
  apply BitVec.eq_of_getLsbD_eq; intro k hk
  simp only [blockD4, BitVec.getLsbD_extractLsb', BitVec.getLsbD_append, BitVec.getLsbD_ofBool]
  interval_cases k <;> simp

theorem blockD4_minute (hour : BitVec 5) (minute : BitVec 6) (sign : Bool) (mag : BitVec 5) :
    (blockD4 hour minute sign mag).extractLsb' 6 6 = minute := by
  apply BitVec.eq_of_getLsbD_eq; intro k hk
  simp only [blockD4, BitVec.getLsbD_extractLsb', BitVec.getLsbD_append, BitVec.getLsbD_ofBool]
  interval_cases k <;> simp

theorem blockD4_sign (hour : BitVec 5) (minute : BitVec 6) (sign : Bool) (mag : BitVec 5) :
    (blockD4 hour minute sign mag).getLsbD 5 = sign := by
  simp only [blockD4, BitVec.getLsbD_extractLsb', BitVec.getLsbD_append, BitVec.getLsbD_ofBool]; simp

theorem blockD4_mag (hour : BitVec 5) (minute : BitVec 6) (sign : Bool) (mag : BitVec 5) :
    (blockD4 hour minute sign mag).extractLsb' 0 5 = mag := by
  apply BitVec.eq_of_getLsbD_eq; intro k hk
  simp only [blockD4, BitVec.getLsbD_extractLsb', BitVec.getLsbD_append, BitVec.getLsbD_ofBool]
  interval_cases k <;> simp

theorem blockC8_div (div dir : Bool) (extent : BitVec 3) (event : BitVec 11) :
    (blockC8 div dir extent event).getLsbD 15 = div := by
  simp only [blockC8, BitVec.getLsbD_extractLsb', BitVec.getLsbD_append, BitVec.getLsbD_ofBool]; simp

theorem blockC8_dir (div dir : Bool) (extent : BitVec 3) (event : BitVec 11) :
    (blockC8 div dir extent event).getLsbD 14 = dir := by
  simp only [blockC8, BitVec.getLsbD_extractLsb', BitVec.getLsbD_append, BitVec.getLsbD_ofBool]; simp

theorem blockC8_extent (div dir : Bool) (extent : BitVec 3) (event : BitVec 11) :
    (blockC8 div dir extent event).extractLsb' 11 3 = extent := by
  apply BitVec.eq_of_getLsbD_eq; intro k hk
  simp only [blockC8, BitVec.getLsbD_extractLsb', BitVec.getLsbD_append, BitVec.getLsbD_ofBool]
  interval_cases k <;> simp

theorem blockC8_event (div dir : Bool) (extent : BitVec 3) (event : BitVec 11) :
    (blockC8 div dir extent event).extractLsb' 0 11 = event := by
  apply BitVec.eq_of_getLsbD_eq; intro k hk
  simp only [blockC8, BitVec.getLsbD_extractLsb', BitVec.getLsbD_append, BitVec.getLsbD_ofBool]
  interval_cases k <;> simp

theorem blockC8w_fgi (sgi : Bool) (gsi : BitVec 2) (window : BitVec 28) :
    (blockC8w sgi gsi window).getLsbD 15 = false := by
  simp only [blockC8w, BitVec.getLsbD_extractLsb', BitVec.getLsbD_append, BitVec.getLsbD_ofBool]; simp

theorem blockC8w_sgi (sgi : Bool) (gsi : BitVec 2) (window : BitVec 28) :
    (blockC8w sgi gsi window).getLsbD 14 = sgi := by
  simp only [blockC8w, BitVec.getLsbD_extractLsb', BitVec.getLsbD_append, BitVec.getLsbD_ofBool]; simp

theorem blockC8w_gsi (sgi : Bool) (gsi : BitVec 2) (window : BitVec 28) :
    (blockC8w sgi gsi window).extractLsb' 12 2 = gsi := by
  apply BitVec.eq_of_getLsbD_eq; intro k hk
  simp only [blockC8w, BitVec.getLsbD_extractLsb', BitVec.getLsbD_append, BitVec.getLsbD_ofBool]
  interval_cases k <;> simp

theorem blockC8w_window (sgi : Bool) (gsi : BitVec 2) (window : BitVec 28) :
    (blockC8w sgi gsi window).extractLsb' 0 12 = window.extractLsb' 16 12 := by
  apply BitVec.eq_of_getLsbD_eq; intro k hk
  simp only [blockC8w, BitVec.getLsbD_extractLsb', BitVec.getLsbD_append, BitVec.getLsbD_ofBool]
  interval_cases k <;> simp


/-! ### The control byte -/

theorem ctrlByte_error (error corrected : Bool) (unused label : BitVec 3) :
    (ctrlByte error corrected unused label).getLsbD 7 = error := by
  simp only [ctrlByte, BitVec.getLsbD_extractLsb', BitVec.getLsbD_append, BitVec.getLsbD_ofBool]; simp

theorem ctrlByte_corrected (error corrected : Bool) (unused label : BitVec 3) :
    (ctrlByte error corrected unused label).getLsbD 6 = corrected := by
  simp only [ctrlByte, BitVec.getLsbD_extractLsb', BitVec.getLsbD_append, BitVec.getLsbD_ofBool]; simp

theorem ctrlByte_unused (error corrected : Bool) (unused label : BitVec 3) :
    (ctrlByte error corrected unused label).extractLsb' 3 3 = unused := by
  apply BitVec.eq_of_getLsbD_eq; intro k hk
  simp only [ctrlByte, BitVec.getLsbD_extractLsb', BitVec.getLsbD_append, BitVec.getLsbD_ofBool]
  interval_cases k <;> simp

theorem ctrlByte_label (error corrected : Bool) (unused label : BitVec 3) :
    (ctrlByte error corrected unused label).extractLsb' 0 3 = label := by
  apply BitVec.eq_of_getLsbD_eq; intro k hk
  simp only [ctrlByte, BitVec.getLsbD_extractLsb', BitVec.getLsbD_append, BitVec.getLsbD_ofBool]
  interval_cases k <;> simp


/-! ### Joining the parts of a field again -/

theorem mjd_join (mjd : BitVec 17) : mjd.extractLsb' 15 2 ++ mjd.extractLsb' 0 15 = mjd := by
  apply BitVec.eq_of_getLsbD_eq; intro k hk
  simp only [BitVec.getLsbD_extractLsb', BitVec.getLsbD_append]
  interval_cases k <;> simp

theorem hour_join (hour : BitVec 5) : hour.extractLsb' 4 1 ++ hour.extractLsb' 0 4 = hour := by
  apply BitVec.eq_of_getLsbD_eq; intro k hk
  simp only [BitVec.getLsbD_extractLsb', BitVec.getLsbD_append]
  interval_cases k <;> simp

theorem window_join (window : BitVec 28) : window.extractLsb' 16 12 ++ window.extractLsb' 0 16 = window := by
  apply BitVec.eq_of_getLsbD_eq; intro k hk
  simp only [BitVec.getLsbD_extractLsb', BitVec.getLsbD_append]
  interval_cases k <;> simp


/-! ### Composing the fields of a block gives the block -/

theorem blockB_fields (b : Word) :
    blockB (b.extractLsb' 12 4) (Version.ofBit (b.getLsbD 11)) (b.getLsbD 10) (b.extractLsb' 5 5) (b.extractLsb' 0 5) = b := by
  apply BitVec.eq_of_getLsbD_eq; intro k hk
  simp only [blockB, bit_ofBit, BitVec.getLsbD_extractLsb', BitVec.getLsbD_append, BitVec.getLsbD_ofBool]
  interval_cases k <;> simp

theorem lowG0_fields (b : Word) :
    lowG0 (b.getLsbD 4) (b.getLsbD 3) (b.getLsbD 2) (b.extractLsb' 0 2) = b.extractLsb' 0 5 := by
  apply BitVec.eq_of_getLsbD_eq; intro k hk
  simp only [lowG0, BitVec.getLsbD_extractLsb', BitVec.getLsbD_append, BitVec.getLsbD_ofBool]
  interval_cases k <;> simp

theorem lowG2_fields (b : Word) :
    lowG2 (b.getLsbD 4) (b.extractLsb' 0 4) = b.extractLsb' 0 5 := by
  apply BitVec.eq_of_getLsbD_eq; intro k hk
  simp only [lowG2, BitVec.getLsbD_extractLsb', BitVec.getLsbD_append, BitVec.getLsbD_ofBool]
  interval_cases k <;> simp

theorem lowG3_fields (b : Word) :
    lowG3 (b.extractLsb' 1 4) (Version.ofBit (b.getLsbD 0)) = b.extractLsb' 0 5 := by
  apply BitVec.eq_of_getLsbD_eq; intro k hk
  simp only [lowG3, bit_ofBit, BitVec.getLsbD_extractLsb', BitVec.getLsbD_append, BitVec.getLsbD_ofBool]
  interval_cases k <;> simp

theorem lowG4_fields (b c : Word) :
    lowG4 (b.extractLsb' 2 3) (b.extractLsb' 0 2 ++ c.extractLsb' 1 15) = b.extractLsb' 0 5 := by
  apply BitVec.eq_of_getLsbD_eq; intro k hk
  simp only [lowG4, BitVec.getLsbD_extractLsb', BitVec.getLsbD_append, BitVec.getLsbD_ofBool]
  interval_cases k <;> simp

theorem lowG8_fields (b : Word) :
    lowG8 (b.getLsbD 4) (b.getLsbD 3) (b.extractLsb' 0 3) = b.extractLsb' 0 5 := by
  apply BitVec.eq_of_getLsbD_eq; intro k hk
  simp only [lowG8, BitVec.getLsbD_extractLsb', BitVec.getLsbD_append, BitVec.getLsbD_ofBool]
  interval_cases k <;> simp

theorem lowG10_fields (b : Word) :
    lowG10 (b.getLsbD 4) (b.extractLsb' 1 3) (b.getLsbD 0) = b.extractLsb' 0 5 := by
  apply BitVec.eq_of_getLsbD_eq; intro k hk
  simp only [lowG10, BitVec.getLsbD_extractLsb', BitVec.getLsbD_append, BitVec.getLsbD_ofBool]
  interval_cases k <;> simp

theorem bytePair_fields (c : Word) :
    bytePair (c.extractLsb' 8 8) (c.extractLsb' 0 8) = c := by
  apply BitVec.eq_of_getLsbD_eq; intro k hk
  simp only [bytePair, BitVec.getLsbD_extractLsb', BitVec.getLsbD_append, BitVec.getLsbD_ofBool]
  interval_cases k <;> simp

theorem blockC1_fields (c : Word) :
    blockC1 (c.getLsbD 15) (c.extractLsb' 12 3) (c.extractLsb' 0 12) = c := by
  apply BitVec.eq_of_getLsbD_eq; intro k hk
  simp only [blockC1, BitVec.getLsbD_extractLsb', BitVec.getLsbD_append, BitVec.getLsbD_ofBool]
  interval_cases k <;> simp

theorem blockC1_byte_fields (c : Word) :
    blockC1 (c.getLsbD 15) (c.extractLsb' 12 3) (c.extractLsb' 8 4 ++ c.extractLsb' 0 8) = c := by
  apply BitVec.eq_of_getLsbD_eq; intro k hk
  simp only [blockC1, BitVec.getLsbD_extractLsb', BitVec.getLsbD_append, BitVec.getLsbD_ofBool]
  interval_cases k <;> simp

theorem blockC3x_fields (c : Word) :
    c.extractLsb' 14 2 ++ c.extractLsb' 0 14 = c := by
  apply BitVec.eq_of_getLsbD_eq; intro k hk
  simp only [BitVec.getLsbD_extractLsb', BitVec.getLsbD_append, BitVec.getLsbD_ofBool]
  interval_cases k <;> simp

theorem blockC8_fields (c : Word) :
    blockC8 (c.getLsbD 15) (c.getLsbD 14) (c.extractLsb' 11 3) (c.extractLsb' 0 11) = c := by
  apply BitVec.eq_of_getLsbD_eq; intro k hk
  simp only [blockC8, BitVec.getLsbD_extractLsb', BitVec.getLsbD_append, BitVec.getLsbD_ofBool]
  interval_cases k <;> simp

theorem blockC4_fields (b c d : Word) :
    blockC4 (b.extractLsb' 0 2 ++ c.extractLsb' 1 15) (c.extractLsb' 0 1 ++ d.extractLsb' 12 4) = c := by
  apply BitVec.eq_of_getLsbD_eq; intro k hk
  simp only [blockC4, BitVec.getLsbD_extractLsb', BitVec.getLsbD_append, BitVec.getLsbD_ofBool]
  interval_cases k <;> simp

theorem blockD4_fields (c d : Word) :
    blockD4 (c.extractLsb' 0 1 ++ d.extractLsb' 12 4) (d.extractLsb' 6 6) (d.getLsbD 5) (d.extractLsb' 0 5) = d := by
  apply BitVec.eq_of_getLsbD_eq; intro k hk
  simp only [blockD4, BitVec.getLsbD_extractLsb', BitVec.getLsbD_append, BitVec.getLsbD_ofBool]
  interval_cases k <;> simp

theorem window_low (c d : Word) :
    (c.extractLsb' 0 12 ++ d).extractLsb' 0 16 = d := by
  apply BitVec.eq_of_getLsbD_eq; intro k hk
  simp only [BitVec.getLsbD_extractLsb', BitVec.getLsbD_append, BitVec.getLsbD_ofBool]
  interval_cases k <;> simp

theorem ctrlByte_fields (x : Byte) :
    ctrlByte (x.getLsbD 7) (x.getLsbD 6) (x.extractLsb' 3 3) (x.extractLsb' 0 3) = x := by
  apply BitVec.eq_of_getLsbD_eq; intro k hk
  simp only [ctrlByte, BitVec.getLsbD_extractLsb', BitVec.getLsbD_append, BitVec.getLsbD_ofBool]
  interval_cases k <;> simp

theorem blockC3v0_fields {c : Word} (h : c.extractLsb' 14 2 = 0) :
    blockC3v0 (c.extractLsb' 12 2) (c.extractLsb' 6 6) (c.getLsbD 5) (c.getLsbD 4) (c.extractLsb' 0 4) = c := by
  unfold blockC3v0
  rw [show (0#2) = c.extractLsb' 14 2 from h.symm]
  apply BitVec.eq_of_getLsbD_eq; intro k hk
  simp only [BitVec.getLsbD_extractLsb', BitVec.getLsbD_append, BitVec.getLsbD_ofBool]
  interval_cases k <;> simp

theorem blockC3v1_fields {c : Word} (h : c.extractLsb' 14 2 = 1) :
    blockC3v1 (c.extractLsb' 12 2) (c.extractLsb' 6 6) (c.extractLsb' 4 2) (c.extractLsb' 2 2) (c.extractLsb' 0 2) = c := by
  unfold blockC3v1
  rw [show (1#2) = c.extractLsb' 14 2 from h.symm]
  apply BitVec.eq_of_getLsbD_eq; intro k hk
  simp only [BitVec.getLsbD_extractLsb', BitVec.getLsbD_append, BitVec.getLsbD_ofBool]
  interval_cases k <;> simp

theorem blockC8w_fields {c : Word} (h : c.getLsbD 15 = false) (d : Word) :
    blockC8w (c.getLsbD 14) (c.extractLsb' 12 2) (c.extractLsb' 0 12 ++ d) = c := by
  unfold blockC8w
  apply BitVec.eq_of_getLsbD_eq; intro k hk
  rw [show (0#1) = BitVec.ofBool (c.getLsbD 15) from by rw [h]; rfl]
  simp only [BitVec.getLsbD_extractLsb', BitVec.getLsbD_append, BitVec.getLsbD_ofBool]
  interval_cases k <;> simp

end Sys2Proof
end

