-- ==== Sys2Proof/Laws/State.lean ====
section
/-! SUPPORT. One lemma per field and named update of the state: what `raise`, `validate`, `invalidate` and `raiseIf` read back as. -/

namespace Sys2Proof.Machine

@[simp] theorem State.raise_pi (f : Field) (s : State) : (s.raise f).pi = s.pi := rfl
@[simp] theorem State.raise_pty (f : Field) (s : State) : (s.raise f).pty = s.pty := rfl
@[simp] theorem State.raise_tp (f : Field) (s : State) : (s.raise f).tp = s.tp := rfl
@[simp] theorem State.raise_ta (f : Field) (s : State) : (s.raise f).ta = s.ta := rfl
@[simp] theorem State.raise_ms (f : Field) (s : State) : (s.raise f).ms = s.ms := rfl
@[simp] theorem State.raise_di (f : Field) (s : State) : (s.raise f).di = s.di := rfl
@[simp] theorem State.raise_ecc (f : Field) (s : State) : (s.raise f).ecc = s.ecc := rfl
@[simp] theorem State.raise_lc (f : Field) (s : State) : (s.raise f).lc = s.lc := rfl
@[simp] theorem State.raise_rtAbFlag (f : Field) (s : State) : (s.raise f).rtAbFlag = s.rtAbFlag := rfl
@[simp] theorem State.raise_ptynAbFlag (f : Field) (s : State) : (s.raise f).ptynAbFlag = s.ptynAbFlag := rfl
@[simp] theorem State.raise_ps (f : Field) (s : State) : (s.raise f).ps = s.ps := rfl
@[simp] theorem State.raise_rt (f : Field) (s : State) : (s.raise f).rt = s.rt := rfl
@[simp] theorem State.raise_rtLength (f : Field) (s : State) : (s.raise f).rtLength = s.rtLength := rfl
@[simp] theorem State.raise_ptyn (f : Field) (s : State) : (s.raise f).ptyn = s.ptyn := rfl
@[simp] theorem State.raise_rdsAf (f : Field) (s : State) : (s.raise f).rdsAf = s.rdsAf := rfl
@[simp] theorem State.raise_rdsOda (f : Field) (s : State) : (s.raise f).rdsOda = s.rdsOda := rfl
@[simp] theorem State.raise_time (f : Field) (s : State) : (s.raise f).time = s.time := rfl
@[simp] theorem State.raise_tmcSys (f : Field) (s : State) : (s.raise f).tmcSys = s.tmcSys := rfl
@[simp] theorem State.raise_tmcMsg (f : Field) (s : State) : (s.raise f).tmcMsg = s.tmcMsg := rfl
@[simp] theorem State.raise_stats (f : Field) (s : State) : (s.raise f).stats = s.stats := rfl
@[simp] theorem State.raise_validFields (f : Field) (s : State) : (s.raise f).validFields = s.validFields := rfl
@[simp] theorem State.raise_decodeInformation (f : Field) (s : State) : (s.raise f).decodeInformation = s.decodeInformation := rfl
@[simp] theorem State.raise_rdsGroup (f : Field) (s : State) : (s.raise f).rdsGroup = s.rdsGroup := rfl
@[simp] theorem State.raise_isRbds (f : Field) (s : State) : (s.raise f).isRbds = s.isRbds := rfl
@[simp] theorem State.raise_decodeState (f : Field) (s : State) : (s.raise f).decodeState = s.decodeState := rfl
@[simp] theorem State.raise_rdsDataRaw (f : Field) (s : State) : (s.raise f).rdsDataRaw = s.rdsDataRaw := rfl
@[simp] theorem State.raise_newPi (f : Field) (s : State) : (s.raise f).newPi = s.newPi := rfl
@[simp] theorem State.raise_newPty (f : Field) (s : State) : (s.raise f).newPty = s.newPty := rfl
@[simp] theorem State.raise_newEcc (f : Field) (s : State) : (s.raise f).newEcc = s.newEcc := rfl
@[simp] theorem State.raise_newLc (f : Field) (s : State) : (s.raise f).newLc = s.newLc := rfl
@[simp] theorem State.raise_newMjd (f : Field) (s : State) : (s.raise f).newMjd = s.newMjd := rfl
@[simp] theorem State.raise_newPs (f : Field) (s : State) : (s.raise f).newPs = s.newPs := rfl
@[simp] theorem State.raise_newPsValid (f : Field) (s : State) : (s.raise f).newPsValid = s.newPsValid := rfl
@[simp] theorem State.raise_newPtyn (f : Field) (s : State) : (s.raise f).newPtyn = s.newPtyn := rfl
@[simp] theorem State.raise_newPtynValid (f : Field) (s : State) : (s.raise f).newPtynValid = s.newPtynValid := rfl
@[simp] theorem State.raise_newDi (f : Field) (s : State) : (s.raise f).newDi = s.newDi := rfl
@[simp] theorem State.raise_nextDiSegment (f : Field) (s : State) : (s.raise f).nextDiSegment = s.nextDiSegment := rfl
@[simp] theorem State.raise_newRt (f : Field) (s : State) : (s.raise f).newRt = s.newRt := rfl
@[simp] theorem State.raise_nextRtSegment (f : Field) (s : State) : (s.raise f).nextRtSegment = s.nextRtSegment := rfl
@[simp] theorem State.raise_prevTmcGroup (f : Field) (s : State) : (s.raise f).prevTmcGroup = s.prevTmcGroup := rfl
@[simp] theorem State.raise_prevTmcSysGroup (f : Field) (s : State) : (s.raise f).prevTmcSysGroup = s.prevTmcSysGroup := rfl
@[simp] theorem State.raise_prevTmcArmed (f : Field) (s : State) : (s.raise f).prevTmcArmed = s.prevTmcArmed := rfl
@[simp] theorem State.raise_newTmcMsg (f : Field) (s : State) : (s.raise f).newTmcMsg = s.newTmcMsg := rfl
@[simp] theorem State.raise_optionalTmc (f : Field) (s : State) : (s.raise f).optionalTmc = s.optionalTmc := rfl
@[simp] theorem State.raise_continuityId (f : Field) (s : State) : (s.raise f).continuityId = s.continuityId := rfl
@[simp] theorem State.raise_grpSeqId (f : Field) (s : State) : (s.raise f).grpSeqId = s.grpSeqId := rfl
@[simp] theorem State.raise_updMask (f : Field) (s : State) : (s.raise f).updMask = s.updMask ||| f.mask := rfl
@[simp] theorem State.raise_readOut (f : Field) (s : State) : (s.raise f).readOut = s.readOut := rfl
@[simp] theorem State.raise_pending (f : Field) (s : State) : (s.raise f).pending = s.pending := rfl
@[simp] theorem State.raise_created (f : Field) (s : State) : (s.raise f).created = s.created := rfl

@[simp] theorem State.validate_pi (f : Field) (s : State) : (s.validate f).pi = s.pi := rfl
@[simp] theorem State.validate_pty (f : Field) (s : State) : (s.validate f).pty = s.pty := rfl
@[simp] theorem State.validate_tp (f : Field) (s : State) : (s.validate f).tp = s.tp := rfl
@[simp] theorem State.validate_ta (f : Field) (s : State) : (s.validate f).ta = s.ta := rfl
@[simp] theorem State.validate_ms (f : Field) (s : State) : (s.validate f).ms = s.ms := rfl
@[simp] theorem State.validate_di (f : Field) (s : State) : (s.validate f).di = s.di := rfl
@[simp] theorem State.validate_ecc (f : Field) (s : State) : (s.validate f).ecc = s.ecc := rfl
@[simp] theorem State.validate_lc (f : Field) (s : State) : (s.validate f).lc = s.lc := rfl
@[simp] theorem State.validate_rtAbFlag (f : Field) (s : State) : (s.validate f).rtAbFlag = s.rtAbFlag := rfl
@[simp] theorem State.validate_ptynAbFlag (f : Field) (s : State) : (s.validate f).ptynAbFlag = s.ptynAbFlag := rfl
@[simp] theorem State.validate_ps (f : Field) (s : State) : (s.validate f).ps = s.ps := rfl
@[simp] theorem State.validate_rt (f : Field) (s : State) : (s.validate f).rt = s.rt := rfl
@[simp] theorem State.validate_rtLength (f : Field) (s : State) : (s.validate f).rtLength = s.rtLength := rfl
@[simp] theorem State.validate_ptyn (f : Field) (s : State) : (s.validate f).ptyn = s.ptyn := rfl
@[simp] theorem State.validate_rdsAf (f : Field) (s : State) : (s.validate f).rdsAf = s.rdsAf := rfl
@[simp] theorem State.validate_rdsOda (f : Field) (s : State) : (s.validate f).rdsOda = s.rdsOda := rfl
@[simp] theorem State.validate_time (f : Field) (s : State) : (s.validate f).time = s.time := rfl
@[simp] theorem State.validate_tmcSys (f : Field) (s : State) : (s.validate f).tmcSys = s.tmcSys := rfl
@[simp] theorem State.validate_tmcMsg (f : Field) (s : State) : (s.validate f).tmcMsg = s.tmcMsg := rfl
@[simp] theorem State.validate_stats (f : Field) (s : State) : (s.validate f).stats = s.stats := rfl
@[simp] theorem State.validate_validFields (f : Field) (s : State) : (s.validate f).validFields = s.validFields ||| f.mask := rfl
@[simp] theorem State.validate_decodeInformation (f : Field) (s : State) : (s.validate f).decodeInformation = s.decodeInformation := rfl
@[simp] theorem State.validate_rdsGroup (f : Field) (s : State) : (s.validate f).rdsGroup = s.rdsGroup := rfl
@[simp] theorem State.validate_isRbds (f : Field) (s : State) : (s.validate f).isRbds = s.isRbds := rfl
@[simp] theorem State.validate_decodeState (f : Field) (s : State) : (s.validate f).decodeState = s.decodeState := rfl
@[simp] theorem State.validate_rdsDataRaw (f : Field) (s : State) : (s.validate f).rdsDataRaw = s.rdsDataRaw := rfl
@[simp] theorem State.validate_newPi (f : Field) (s : State) : (s.validate f).newPi = s.newPi := rfl
@[simp] theorem State.validate_newPty (f : Field) (s : State) : (s.validate f).newPty = s.newPty := rfl
@[simp] theorem State.validate_newEcc (f : Field) (s : State) : (s.validate f).newEcc = s.newEcc := rfl
@[simp] theorem State.validate_newLc (f : Field) (s : State) : (s.validate f).newLc = s.newLc := rfl
@[simp] theorem State.validate_newMjd (f : Field) (s : State) : (s.validate f).newMjd = s.newMjd := rfl
@[simp] theorem State.validate_newPs (f : Field) (s : State) : (s.validate f).newPs = s.newPs := rfl
@[simp] theorem State.validate_newPsValid (f : Field) (s : State) : (s.validate f).newPsValid = s.newPsValid := rfl
@[simp] theorem State.validate_newPtyn (f : Field) (s : State) : (s.validate f).newPtyn = s.newPtyn := rfl
@[simp] theorem State.validate_newPtynValid (f : Field) (s : State) : (s.validate f).newPtynValid = s.newPtynValid := rfl
@[simp] theorem State.validate_newDi (f : Field) (s : State) : (s.validate f).newDi = s.newDi := rfl
@[simp] theorem State.validate_nextDiSegment (f : Field) (s : State) : (s.validate f).nextDiSegment = s.nextDiSegment := rfl
@[simp] theorem State.validate_newRt (f : Field) (s : State) : (s.validate f).newRt = s.newRt := rfl
@[simp] theorem State.validate_nextRtSegment (f : Field) (s : State) : (s.validate f).nextRtSegment = s.nextRtSegment := rfl
@[simp] theorem State.validate_prevTmcGroup (f : Field) (s : State) : (s.validate f).prevTmcGroup = s.prevTmcGroup := rfl
@[simp] theorem State.validate_prevTmcSysGroup (f : Field) (s : State) : (s.validate f).prevTmcSysGroup = s.prevTmcSysGroup := rfl
@[simp] theorem State.validate_prevTmcArmed (f : Field) (s : State) : (s.validate f).prevTmcArmed = s.prevTmcArmed := rfl
@[simp] theorem State.validate_newTmcMsg (f : Field) (s : State) : (s.validate f).newTmcMsg = s.newTmcMsg := rfl
@[simp] theorem State.validate_optionalTmc (f : Field) (s : State) : (s.validate f).optionalTmc = s.optionalTmc := rfl
@[simp] theorem State.validate_continuityId (f : Field) (s : State) : (s.validate f).continuityId = s.continuityId := rfl
@[simp] theorem State.validate_grpSeqId (f : Field) (s : State) : (s.validate f).grpSeqId = s.grpSeqId := rfl
@[simp] theorem State.validate_updMask (f : Field) (s : State) : (s.validate f).updMask = s.updMask := rfl
@[simp] theorem State.validate_readOut (f : Field) (s : State) : (s.validate f).readOut = s.readOut := rfl
@[simp] theorem State.validate_pending (f : Field) (s : State) : (s.validate f).pending = s.pending := rfl
@[simp] theorem State.validate_created (f : Field) (s : State) : (s.validate f).created = s.created := rfl

@[simp] theorem State.invalidate_pi (f : Field) (s : State) : (s.invalidate f).pi = s.pi := rfl
@[simp] theorem State.invalidate_pty (f : Field) (s : State) : (s.invalidate f).pty = s.pty := rfl
@[simp] theorem State.invalidate_tp (f : Field) (s : State) : (s.invalidate f).tp = s.tp := rfl
@[simp] theorem State.invalidate_ta (f : Field) (s : State) : (s.invalidate f).ta = s.ta := rfl
@[simp] theorem State.invalidate_ms (f : Field) (s : State) : (s.invalidate f).ms = s.ms := rfl
@[simp] theorem State.invalidate_di (f : Field) (s : State) : (s.invalidate f).di = s.di := rfl
@[simp] theorem State.invalidate_ecc (f : Field) (s : State) : (s.invalidate f).ecc = s.ecc := rfl
@[simp] theorem State.invalidate_lc (f : Field) (s : State) : (s.invalidate f).lc = s.lc := rfl
@[simp] theorem State.invalidate_rtAbFlag (f : Field) (s : State) : (s.invalidate f).rtAbFlag = s.rtAbFlag := rfl
@[simp] theorem State.invalidate_ptynAbFlag (f : Field) (s : State) : (s.invalidate f).ptynAbFlag = s.ptynAbFlag := rfl
@[simp] theorem State.invalidate_ps (f : Field) (s : State) : (s.invalidate f).ps = s.ps := rfl
@[simp] theorem State.invalidate_rt (f : Field) (s : State) : (s.invalidate f).rt = s.rt := rfl
@[simp] theorem State.invalidate_rtLength (f : Field) (s : State) : (s.invalidate f).rtLength = s.rtLength := rfl
@[simp] theorem State.invalidate_ptyn (f : Field) (s : State) : (s.invalidate f).ptyn = s.ptyn := rfl
@[simp] theorem State.invalidate_rdsAf (f : Field) (s : State) : (s.invalidate f).rdsAf = s.rdsAf := rfl
@[simp] theorem State.invalidate_rdsOda (f : Field) (s : State) : (s.invalidate f).rdsOda = s.rdsOda := rfl
@[simp] theorem State.invalidate_time (f : Field) (s : State) : (s.invalidate f).time = s.time := rfl
@[simp] theorem State.invalidate_tmcSys (f : Field) (s : State) : (s.invalidate f).tmcSys = s.tmcSys := rfl
@[simp] theorem State.invalidate_tmcMsg (f : Field) (s : State) : (s.invalidate f).tmcMsg = s.tmcMsg := rfl
@[simp] theorem State.invalidate_stats (f : Field) (s : State) : (s.invalidate f).stats = s.stats := rfl
@[simp] theorem State.invalidate_validFields (f : Field) (s : State) : (s.invalidate f).validFields = s.validFields &&& ~~~f.mask := rfl
@[simp] theorem State.invalidate_decodeInformation (f : Field) (s : State) : (s.invalidate f).decodeInformation = s.decodeInformation := rfl
@[simp] theorem State.invalidate_rdsGroup (f : Field) (s : State) : (s.invalidate f).rdsGroup = s.rdsGroup := rfl
@[simp] theorem State.invalidate_isRbds (f : Field) (s : State) : (s.invalidate f).isRbds = s.isRbds := rfl
@[simp] theorem State.invalidate_decodeState (f : Field) (s : State) : (s.invalidate f).decodeState = s.decodeState := rfl
@[simp] theorem State.invalidate_rdsDataRaw (f : Field) (s : State) : (s.invalidate f).rdsDataRaw = s.rdsDataRaw := rfl
@[simp] theorem State.invalidate_newPi (f : Field) (s : State) : (s.invalidate f).newPi = s.newPi := rfl
@[simp] theorem State.invalidate_newPty (f : Field) (s : State) : (s.invalidate f).newPty = s.newPty := rfl
@[simp] theorem State.invalidate_newEcc (f : Field) (s : State) : (s.invalidate f).newEcc = s.newEcc := rfl
@[simp] theorem State.invalidate_newLc (f : Field) (s : State) : (s.invalidate f).newLc = s.newLc := rfl
@[simp] theorem State.invalidate_newMjd (f : Field) (s : State) : (s.invalidate f).newMjd = s.newMjd := rfl
@[simp] theorem State.invalidate_newPs (f : Field) (s : State) : (s.invalidate f).newPs = s.newPs := rfl
@[simp] theorem State.invalidate_newPsValid (f : Field) (s : State) : (s.invalidate f).newPsValid = s.newPsValid := rfl
@[simp] theorem State.invalidate_newPtyn (f : Field) (s : State) : (s.invalidate f).newPtyn = s.newPtyn := rfl
@[simp] theorem State.invalidate_newPtynValid (f : Field) (s : State) : (s.invalidate f).newPtynValid = s.newPtynValid := rfl
@[simp] theorem State.invalidate_newDi (f : Field) (s : State) : (s.invalidate f).newDi = s.newDi := rfl
@[simp] theorem State.invalidate_nextDiSegment (f : Field) (s : State) : (s.invalidate f).nextDiSegment = s.nextDiSegment := rfl
@[simp] theorem State.invalidate_newRt (f : Field) (s : State) : (s.invalidate f).newRt = s.newRt := rfl
@[simp] theorem State.invalidate_nextRtSegment (f : Field) (s : State) : (s.invalidate f).nextRtSegment = s.nextRtSegment := rfl
@[simp] theorem State.invalidate_prevTmcGroup (f : Field) (s : State) : (s.invalidate f).prevTmcGroup = s.prevTmcGroup := rfl
@[simp] theorem State.invalidate_prevTmcSysGroup (f : Field) (s : State) : (s.invalidate f).prevTmcSysGroup = s.prevTmcSysGroup := rfl
@[simp] theorem State.invalidate_prevTmcArmed (f : Field) (s : State) : (s.invalidate f).prevTmcArmed = s.prevTmcArmed := rfl
@[simp] theorem State.invalidate_newTmcMsg (f : Field) (s : State) : (s.invalidate f).newTmcMsg = s.newTmcMsg := rfl
@[simp] theorem State.invalidate_optionalTmc (f : Field) (s : State) : (s.invalidate f).optionalTmc = s.optionalTmc := rfl
@[simp] theorem State.invalidate_continuityId (f : Field) (s : State) : (s.invalidate f).continuityId = s.continuityId := rfl
@[simp] theorem State.invalidate_grpSeqId (f : Field) (s : State) : (s.invalidate f).grpSeqId = s.grpSeqId := rfl
@[simp] theorem State.invalidate_updMask (f : Field) (s : State) : (s.invalidate f).updMask = s.updMask := rfl
@[simp] theorem State.invalidate_readOut (f : Field) (s : State) : (s.invalidate f).readOut = s.readOut := rfl
@[simp] theorem State.invalidate_pending (f : Field) (s : State) : (s.invalidate f).pending = s.pending := rfl
@[simp] theorem State.invalidate_created (f : Field) (s : State) : (s.invalidate f).created = s.created := rfl

@[simp] theorem State.raiseIf_pi (f : Field) (c : Bool) (s : State) : (s.raiseIf f c).pi = s.pi := by cases c <;> rfl
@[simp] theorem State.raiseIf_pty (f : Field) (c : Bool) (s : State) : (s.raiseIf f c).pty = s.pty := by cases c <;> rfl
@[simp] theorem State.raiseIf_tp (f : Field) (c : Bool) (s : State) : (s.raiseIf f c).tp = s.tp := by cases c <;> rfl
@[simp] theorem State.raiseIf_ta (f : Field) (c : Bool) (s : State) : (s.raiseIf f c).ta = s.ta := by cases c <;> rfl
@[simp] theorem State.raiseIf_ms (f : Field) (c : Bool) (s : State) : (s.raiseIf f c).ms = s.ms := by cases c <;> rfl
@[simp] theorem State.raiseIf_di (f : Field) (c : Bool) (s : State) : (s.raiseIf f c).di = s.di := by cases c <;> rfl
@[simp] theorem State.raiseIf_ecc (f : Field) (c : Bool) (s : State) : (s.raiseIf f c).ecc = s.ecc := by cases c <;> rfl
@[simp] theorem State.raiseIf_lc (f : Field) (c : Bool) (s : State) : (s.raiseIf f c).lc = s.lc := by cases c <;> rfl
@[simp] theorem State.raiseIf_rtAbFlag (f : Field) (c : Bool) (s : State) : (s.raiseIf f c).rtAbFlag = s.rtAbFlag := by cases c <;> rfl
@[simp] theorem State.raiseIf_ptynAbFlag (f : Field) (c : Bool) (s : State) : (s.raiseIf f c).ptynAbFlag = s.ptynAbFlag := by cases c <;> rfl
@[simp] theorem State.raiseIf_ps (f : Field) (c : Bool) (s : State) : (s.raiseIf f c).ps = s.ps := by cases c <;> rfl
@[simp] theorem State.raiseIf_rt (f : Field) (c : Bool) (s : State) : (s.raiseIf f c).rt = s.rt := by cases c <;> rfl
@[simp] theorem State.raiseIf_rtLength (f : Field) (c : Bool) (s : State) : (s.raiseIf f c).rtLength = s.rtLength := by cases c <;> rfl
@[simp] theorem State.raiseIf_ptyn (f : Field) (c : Bool) (s : State) : (s.raiseIf f c).ptyn = s.ptyn := by cases c <;> rfl
@[simp] theorem State.raiseIf_rdsAf (f : Field) (c : Bool) (s : State) : (s.raiseIf f c).rdsAf = s.rdsAf := by cases c <;> rfl
@[simp] theorem State.raiseIf_rdsOda (f : Field) (c : Bool) (s : State) : (s.raiseIf f c).rdsOda = s.rdsOda := by cases c <;> rfl
@[simp] theorem State.raiseIf_time (f : Field) (c : Bool) (s : State) : (s.raiseIf f c).time = s.time := by cases c <;> rfl
@[simp] theorem State.raiseIf_tmcSys (f : Field) (c : Bool) (s : State) : (s.raiseIf f c).tmcSys = s.tmcSys := by cases c <;> rfl
@[simp] theorem State.raiseIf_tmcMsg (f : Field) (c : Bool) (s : State) : (s.raiseIf f c).tmcMsg = s.tmcMsg := by cases c <;> rfl
@[simp] theorem State.raiseIf_stats (f : Field) (c : Bool) (s : State) : (s.raiseIf f c).stats = s.stats := by cases c <;> rfl
@[simp] theorem State.raiseIf_validFields (f : Field) (c : Bool) (s : State) : (s.raiseIf f c).validFields = s.validFields := by cases c <;> rfl
@[simp] theorem State.raiseIf_decodeInformation (f : Field) (c : Bool) (s : State) : (s.raiseIf f c).decodeInformation = s.decodeInformation := by cases c <;> rfl
@[simp] theorem State.raiseIf_rdsGroup (f : Field) (c : Bool) (s : State) : (s.raiseIf f c).rdsGroup = s.rdsGroup := by cases c <;> rfl
@[simp] theorem State.raiseIf_isRbds (f : Field) (c : Bool) (s : State) : (s.raiseIf f c).isRbds = s.isRbds := by cases c <;> rfl
@[simp] theorem State.raiseIf_decodeState (f : Field) (c : Bool) (s : State) : (s.raiseIf f c).decodeState = s.decodeState := by cases c <;> rfl
@[simp] theorem State.raiseIf_rdsDataRaw (f : Field) (c : Bool) (s : State) : (s.raiseIf f c).rdsDataRaw = s.rdsDataRaw := by cases c <;> rfl
@[simp] theorem State.raiseIf_newPi (f : Field) (c : Bool) (s : State) : (s.raiseIf f c).newPi = s.newPi := by cases c <;> rfl
@[simp] theorem State.raiseIf_newPty (f : Field) (c : Bool) (s : State) : (s.raiseIf f c).newPty = s.newPty := by cases c <;> rfl
@[simp] theorem State.raiseIf_newEcc (f : Field) (c : Bool) (s : State) : (s.raiseIf f c).newEcc = s.newEcc := by cases c <;> rfl
@[simp] theorem State.raiseIf_newLc (f : Field) (c : Bool) (s : State) : (s.raiseIf f c).newLc = s.newLc := by cases c <;> rfl
@[simp] theorem State.raiseIf_newMjd (f : Field) (c : Bool) (s : State) : (s.raiseIf f c).newMjd = s.newMjd := by cases c <;> rfl
@[simp] theorem State.raiseIf_newPs (f : Field) (c : Bool) (s : State) : (s.raiseIf f c).newPs = s.newPs := by cases c <;> rfl
@[simp] theorem State.raiseIf_newPsValid (f : Field) (c : Bool) (s : State) : (s.raiseIf f c).newPsValid = s.newPsValid := by cases c <;> rfl
@[simp] theorem State.raiseIf_newPtyn (f : Field) (c : Bool) (s : State) : (s.raiseIf f c).newPtyn = s.newPtyn := by cases c <;> rfl
@[simp] theorem State.raiseIf_newPtynValid (f : Field) (c : Bool) (s : State) : (s.raiseIf f c).newPtynValid = s.newPtynValid := by cases c <;> rfl
@[simp] theorem State.raiseIf_newDi (f : Field) (c : Bool) (s : State) : (s.raiseIf f c).newDi = s.newDi := by cases c <;> rfl
@[simp] theorem State.raiseIf_nextDiSegment (f : Field) (c : Bool) (s : State) : (s.raiseIf f c).nextDiSegment = s.nextDiSegment := by cases c <;> rfl
@[simp] theorem State.raiseIf_newRt (f : Field) (c : Bool) (s : State) : (s.raiseIf f c).newRt = s.newRt := by cases c <;> rfl
@[simp] theorem State.raiseIf_nextRtSegment (f : Field) (c : Bool) (s : State) : (s.raiseIf f c).nextRtSegment = s.nextRtSegment := by cases c <;> rfl
@[simp] theorem State.raiseIf_prevTmcGroup (f : Field) (c : Bool) (s : State) : (s.raiseIf f c).prevTmcGroup = s.prevTmcGroup := by cases c <;> rfl
@[simp] theorem State.raiseIf_prevTmcSysGroup (f : Field) (c : Bool) (s : State) : (s.raiseIf f c).prevTmcSysGroup = s.prevTmcSysGroup := by cases c <;> rfl
@[simp] theorem State.raiseIf_prevTmcArmed (f : Field) (c : Bool) (s : State) : (s.raiseIf f c).prevTmcArmed = s.prevTmcArmed := by cases c <;> rfl
@[simp] theorem State.raiseIf_newTmcMsg (f : Field) (c : Bool) (s : State) : (s.raiseIf f c).newTmcMsg = s.newTmcMsg := by cases c <;> rfl
@[simp] theorem State.raiseIf_optionalTmc (f : Field) (c : Bool) (s : State) : (s.raiseIf f c).optionalTmc = s.optionalTmc := by cases c <;> rfl
@[simp] theorem State.raiseIf_continuityId (f : Field) (c : Bool) (s : State) : (s.raiseIf f c).continuityId = s.continuityId := by cases c <;> rfl
@[simp] theorem State.raiseIf_grpSeqId (f : Field) (c : Bool) (s : State) : (s.raiseIf f c).grpSeqId = s.grpSeqId := by cases c <;> rfl
@[simp] theorem State.raiseIf_updMask (f : Field) (c : Bool) (s : State) : (s.raiseIf f c).updMask = if c then s.updMask ||| f.mask else s.updMask := by cases c <;> rfl
@[simp] theorem State.raiseIf_readOut (f : Field) (c : Bool) (s : State) : (s.raiseIf f c).readOut = s.readOut := by cases c <;> rfl
@[simp] theorem State.raiseIf_pending (f : Field) (c : Bool) (s : State) : (s.raiseIf f c).pending = s.pending := by cases c <;> rfl
@[simp] theorem State.raiseIf_created (f : Field) (c : Bool) (s : State) : (s.raiseIf f c).created = s.created := by cases c <;> rfl

end Sys2Proof.Machine
end

