-- ==== Sys2Proof/Laws/Rules.lean ====
section
/-! SUPPORT. One spec lemma per shared operation: what it does to the state, as one record update with the conditions inside the
fields. A proof rewrites with these and never unfolds the operation. -/

namespace Sys2Proof.Machine

/-! ### Guards and ports -/

theorem whenCreated_of_created {s : State} (h : s.created = true) (f : State → State) : whenCreated s f = .next (f s) := by
  simp [whenCreated, h]

theorem whenCreated_of_destroyed {s : State} (h : s.created = false) (f : State → State) : whenCreated s f = .refused .destroyed := by
  simp [whenCreated, h]

/-- Everything a guarded effect can answer. -/
theorem whenCreated_eq_next {s t : State} {f : State → State} (h : whenCreated s f = .next t) : s.created = true ∧ t = f s := by
  cases hc : s.created with
  | true => rw [whenCreated_of_created hc] at h; cases h; exact ⟨rfl, rfl⟩
  | false => rw [whenCreated_of_destroyed hc] at h; cases h

theorem onGroup_of_created {s : State} (h : s.created = true) (g : Group) (tp : Bool) (pty : BitVec 5) (f : State → State) :
    onGroup g tp pty f s = .next (f (commonExtractors g tp pty s.clearOutputs)) := whenCreated_of_created h _

/-- Everything a group decode can answer. -/
theorem onGroup_eq_next {s t : State} {g : Group} {tp : Bool} {pty : BitVec 5} {f : State → State}
    (h : onGroup g tp pty f s = .next t) : s.created = true ∧ t = f (commonExtractors g tp pty s.clearOutputs) :=
  whenCreated_eq_next h

/-! ### The common extractors -/

theorem observePi_eq (x : Word) (s : State) :
    observePi x s = { s with
      newPi := x
      pi := if accepts s.pi s.newPi x then x else s.pi
      validFields := if accepts s.pi s.newPi x then s.validFields ||| Field.pi.mask else s.validFields
      updMask := if accepts s.pi s.newPi x then s.updMask ||| Field.pi.mask else s.updMask } := by
  unfold observePi; split <;> rfl

theorem observePty_eq (x : BitVec 5) (s : State) :
    observePty x s = { s with
      newPty := x
      pty := if accepts s.pty s.newPty x then x else s.pty
      validFields := if accepts s.pty s.newPty x then s.validFields ||| Field.pty.mask else s.validFields
      updMask := if accepts s.pty s.newPty x then s.updMask ||| Field.pty.mask else s.updMask } := by
  unfold observePty; split <;> rfl

theorem acceptTp_eq (x : Bool) (s : State) :
    acceptTp x s = { s with
      tp := x
      validFields := s.validFields ||| Field.tp.mask
      updMask := if x != s.tp then s.updMask ||| Field.tp.mask else s.updMask } := by
  unfold acceptTp State.raiseIf; split <;> rfl

/-- What the common extractors add to `valid_fields`. -/
def commonValid (g : Group) (pty : BitVec 5) (s : State) : Mask :=
  (if accepts s.pi s.newPi g.pi then Field.pi.mask else 0) ||| Field.tp.mask
    ||| (if accepts s.pty s.newPty pty then Field.pty.mask else 0)

/-- What the common extractors add to the mask. -/
def commonMask (g : Group) (tp : Bool) (pty : BitVec 5) (s : State) : Mask :=
  (if accepts s.pi s.newPi g.pi then Field.pi.mask else 0) ||| (if tp != s.tp then Field.tp.mask else 0)
    ||| (if accepts s.pty s.newPty pty then Field.pty.mask else 0)

theorem commonExtractors_eq (g : Group) (tp : Bool) (pty : BitVec 5) (s : State) :
    commonExtractors g tp pty s = { s with
      newPi := g.pi
      pi := if accepts s.pi s.newPi g.pi then g.pi else s.pi
      newPty := pty
      pty := if accepts s.pty s.newPty pty then pty else s.pty
      tp := tp
      rdsGroup := g
      stats := { s.stats with
        groupTypeCnt :=
          s.stats.groupTypeCnt.set g.groupId.toNat (count (s.stats.groupTypeCnt[g.groupId.toNat]'g.groupId.isLt)) g.groupId.isLt }
      validFields := s.validFields ||| commonValid g pty s
      updMask := s.updMask ||| commonMask g tp pty s } := by
  unfold commonExtractors countGroupType commonValid commonMask
  rw [observePi_eq, acceptTp_eq, observePty_eq]
  by_cases h1 : accepts s.pi s.newPi g.pi <;> by_cases h2 : accepts s.pty s.newPty pty <;> by_cases h3 : (tp != s.tp) = true <;>
    simp [h1, h2, h3, BitVec.or_assoc]

/-! ### Group 0 -/

theorem acceptTa_eq (x : Bool) (s : State) :
    acceptTa x s = { s with
      ta := x
      validFields := s.validFields ||| Field.ta.mask
      updMask := if x != s.ta then s.updMask ||| Field.ta.mask else s.updMask } := by
  unfold acceptTa State.raiseIf; split <;> rfl

theorem acceptMs_eq (x : Bool) (s : State) :
    acceptMs x s = { s with
      ms := x
      validFields := s.validFields ||| Field.ms.mask
      updMask := if x != s.ms then s.updMask ||| Field.ms.mask else s.updMask } := by
  unfold acceptMs State.raiseIf; split <;> rfl

theorem addPs_eq (pos : Fin 8) (ch : Byte) (s : State) :
    addPs pos ch s = { s with
      newPs := if ch = s.newPs[pos] then s.newPs else s.newPs.set pos ch
      newPsValid := if ch = s.newPs[pos] then s.newPsValid.set pos true else Vector.replicate _ false } := by
  unfold addPs; split <;> rfl

theorem publishPs_eq (s : State) :
    publishPs s = { s with
      ps := if ∀ i : Fin 8, s.newPsValid[i] = true then s.newPs else s.ps
      validFields := if ∀ i : Fin 8, s.newPsValid[i] = true then s.validFields ||| Field.ps.mask else s.validFields
      updMask :=
        if (∀ i : Fin 8, s.newPsValid[i] = true) ∧ s.newPs ≠ s.ps then s.updMask ||| Field.ps.mask else s.updMask } := by
  unfold publishPs State.raiseIf
  by_cases h : ∀ i : Fin 8, s.newPsValid[i] = true
  · by_cases h' : s.newPs = s.ps
    · simp only [h]; simp [h', State.validate]
    · simp only [h]; simp [h', State.validate, State.raise]
  · simp only [h]; simp

theorem stepDi_zero (b : Bool) (s : State) :
    stepDi 0 b s = { s with newDi := setBit 0 0 b, nextDiSegment := 1 } := rfl

theorem stepDi_expected {seg : BitVec 2} {s : State} (h0 : seg ≠ 0) (hn : seg = s.nextDiSegment) (h3 : seg ≠ 3) (b : Bool) :
    stepDi seg b s = { s with newDi := setBit s.newDi seg.toNat b, nextDiSegment := seg + 1 } := by
  unfold stepDi; rw [if_neg h0, if_pos ⟨hn, h3⟩]

theorem stepDi_last {s : State} (hn : s.nextDiSegment = 3) (b : Bool) :
    stepDi 3 b s = { s with
      newDi := setBit s.newDi 3 b
      nextDiSegment := 0
      di := setBit s.newDi 3 b
      validFields := s.validFields ||| Field.di.mask
      updMask := if setBit s.newDi 3 b != s.di then s.updMask ||| Field.di.mask else s.updMask } := by
  unfold stepDi
  rw [if_neg (by decide), if_neg (fun h => h.2 rfl), if_pos ⟨hn.symm, rfl⟩]
  unfold completeDi State.raiseIf; dsimp only [Config.diBitOfSegment]; split <;> rfl

theorem stepDi_other {seg : BitVec 2} {s : State} (h0 : seg ≠ 0) (hn : seg ≠ s.nextDiSegment) (b : Bool) :
    stepDi seg b s = { s with newDi := 0, nextDiSegment := 0 } := by
  unfold stepDi; rw [if_neg h0, if_neg (fun h => hn h.1), if_neg (fun h => hn h.1)]

theorem addAfPair_eq (b1 b2 : Byte) (s : State) :
    addAfPair b1 b2 s = { s with
      rdsAf := s.rdsAf.pair b1 b2
      validFields :=
        if (s.rdsAf.pair b1 b2).announcedAf ≠ 0 ∧ (s.rdsAf.pair b1 b2).size = (s.rdsAf.pair b1 b2).announcedAf
        then s.validFields ||| Field.af.mask else s.validFields
      updMask := if !(s.rdsAf.pair b1 b2).same s.rdsAf then s.updMask ||| Field.af.mask else s.updMask } := by
  unfold addAfPair State.raiseIf
  dsimp only
  split_ifs <;> rfl

/-! ### Group 1 -/

theorem observeEcc_eq (x : Byte) (s : State) :
    observeEcc x s = { s with
      newEcc := x
      ecc := if accepts s.ecc s.newEcc x then x else s.ecc
      validFields := if accepts s.ecc s.newEcc x then s.validFields ||| Field.ecc.mask else s.validFields
      updMask := if accepts s.ecc s.newEcc x then s.updMask ||| Field.ecc.mask else s.updMask } := by
  unfold observeEcc; split <;> rfl

theorem observeLc_eq (x : Byte) (s : State) :
    observeLc x s = { s with
      newLc := x
      lc := if accepts s.lc s.newLc x then x else s.lc
      validFields := if accepts s.lc s.newLc x then s.validFields ||| Field.lc.mask else s.validFields
      updMask := if accepts s.lc s.newLc x then s.updMask ||| Field.lc.mask else s.updMask } := by
  unfold observeLc; split <;> rfl

/-! ### Group 2 -/

theorem toggleRt_eq (ab : Bool) (s : State) :
    toggleRt ab s = { s with
      rtAbFlag := ab
      newRt := if ab = s.rtAbFlag then s.newRt else Vector.replicate _ 0
      rt := if ab = s.rtAbFlag then s.rt else Vector.replicate _ 0
      rtLength := if ab = s.rtAbFlag then s.rtLength else 0
      nextRtSegment := if ab = s.rtAbFlag then s.nextRtSegment else 0
      validFields := if ab = s.rtAbFlag then s.validFields else s.validFields &&& ~~~Field.rt.mask
      updMask := if ab = s.rtAbFlag then s.updMask else s.updMask ||| Field.rt.mask } := by
  unfold toggleRt
  by_cases h : ab = s.rtAbFlag
  · simp [h]
  · simp [h, State.invalidate, State.raise]

theorem publishRt_eq (len : Nat) (s : State) :
    publishRt len s = { s with
      rt := rtText len s.newRt
      rtLength := BitVec.ofNat 7 len
      nextRtSegment := 0
      validFields := s.validFields ||| Field.rt.mask } := rfl

theorem reportRt_eq (before s : State) :
    reportRt before s = { s with
      updMask := if s.rt ≠ before.rt ∨ s.rtLength ≠ before.rtLength then s.updMask ||| Field.rt.mask else s.updMask } := by
  have hb : (s.rt != before.rt || s.rtLength != before.rtLength) = decide (s.rt ≠ before.rt ∨ s.rtLength ≠ before.rtLength) := by
    simp [bne, Bool.decide_or, beq_eq_decide]
  unfold reportRt State.raiseIf
  rw [hb]
  by_cases h : s.rt ≠ before.rt ∨ s.rtLength ≠ before.rtLength
  · rw [if_pos (decide_eq_true h), if_pos h]; rfl
  · rw [if_neg (by simpa using h), if_neg h]

/-- A segment's store changes only the staged text and the expected segment. -/
theorem storeRtA_eq (seg : BitVec 4) (c0 c1 c2 c3 : Byte) (s : State) :
    storeRtA seg c0 c1 c2 c3 s = { s with newRt := (storeRtA seg c0 c1 c2 c3 s).newRt, nextRtSegment := seg.setWidth 5 + 1 } := rfl

theorem storeRtB_eq (seg : BitVec 4) (c0 c1 : Byte) (s : State) :
    storeRtB seg c0 c1 s = { s with newRt := (storeRtB seg c0 c1 s).newRt, nextRtSegment := seg.setWidth 5 + 1 } := rfl

/-! ### Group 3 -/

theorem setTmcSys_eq (p : TmcSys) (s : State) :
    setTmcSys p s = { s with
      tmcSys := p
      validFields := s.validFields ||| Field.tmcSys.mask
      updMask := if p ≠ s.tmcSys then s.updMask ||| Field.tmcSys.mask else s.updMask } := by
  unfold setTmcSys State.raiseIf
  by_cases h : p = s.tmcSys <;> simp [h, State.validate, State.raise]

/-- The table after an announcement (R221). -/
def OdaTable.update (gid : BitVec 4) (ver : Version) (aid : Word) (t : OdaTable) : OdaTable :=
  match t.find gid ver with
  | some i => { t with oda := t.oda.set i { t.oda[i] with aid := aid } }
  | none => if h : t.size < Config.maxOda then { size := t.size + 1, oda := t.oda.set t.size ⟨gid, ver, aid⟩ h } else t

/-- An announcement appends a row (R221). -/
def OdaTable.appends (gid : BitVec 4) (ver : Version) (t : OdaTable) : Bool :=
  (t.find gid ver).isNone && decide (t.size < 18)

/-- An announcement replaces an AID by a different one (R221). -/
def OdaTable.replaces (gid : BitVec 4) (ver : Version) (aid : Word) (t : OdaTable) : Bool :=
  match t.find gid ver with
  | some i => t.oda[i].aid != aid
  | none => false

theorem updateOda_eq (gid : BitVec 4) (ver : Version) (aid : Word) (s : State) :
    updateOda gid ver aid s = { s with
      rdsOda := s.rdsOda.update gid ver aid
      decodeInformation := if s.rdsOda.appends gid ver then s.decodeInformation ||| infoOda else s.decodeInformation
      updMask :=
        if s.rdsOda.appends gid ver || s.rdsOda.replaces gid ver aid then s.updMask ||| Field.oda.mask else s.updMask } := by
  unfold updateOda OdaTable.update OdaTable.appends OdaTable.replaces State.raiseIf
  cases hf : s.rdsOda.find gid ver with
  | some i => dsimp only; simp only [Option.isNone_some, Bool.false_and, Bool.false_or]; split_ifs <;> first | rfl | simp_all
  | none => by_cases h : s.rdsOda.size < 18 <;> simp [h, State.raise]

theorem stageTmcSys_hit {g : Group} {s : State} (h : g = s.prevTmcSysGroup) (f : State → State) :
    stageTmcSys g f s = f { s with prevTmcSysGroup := g } := by simp [stageTmcSys, ← h]

theorem stageTmcSys_miss {g : Group} {s : State} (h : g ≠ s.prevTmcSysGroup) (f : State → State) :
    stageTmcSys g f s = { s with prevTmcSysGroup := g } := by simp [stageTmcSys, h]

/-! ### Group 4 -/

theorem observeMjd_eq (mjd : BitVec 17) (t : CivilTime) (s : State) :
    observeMjd mjd t s = { s with
      newMjd := mjd
      time := if mjd = s.newMjd then t else s.time
      validFields := if mjd = s.newMjd then s.validFields ||| Field.time.mask else s.validFields
      updMask := if mjd = s.newMjd ∧ t ≠ s.time then s.updMask ||| Field.time.mask else s.updMask } := by
  unfold observeMjd setTime State.raiseIf
  by_cases h : mjd = s.newMjd
  · by_cases h' : t = s.time
    · simp [h, h', State.validate]
    · simp [h, h', State.validate, State.raise]
  · simp [h]

/-! ### Group 8 -/

theorem tmcGate_hit {g : Group} {s : State} (h : s.prevTmcArmed = true ∧ g = s.prevTmcGroup) (f : State → State) :
    tmcGate g f s = f { s with prevTmcArmed := false } := by simp only [tmcGate, h]; simp

theorem tmcGate_miss {g : Group} {s : State} (h : ¬(s.prevTmcArmed = true ∧ g = s.prevTmcGroup)) (f : State → State) :
    tmcGate g f s = { s with prevTmcGroup := g, prevTmcArmed := true } := by simp only [tmcGate, h]; simp

theorem publishSingle_eq (p : TmcPending) (s : State) :
    publishSingle p s = { s with
      tmcMsg := ⟨p, Additional.zero⟩
      validFields := (s.validFields ||| Field.tmcSg.mask) &&& ~~~Field.tmcMg.mask
      updMask := if (⟨p, Additional.zero⟩ : TmcMsg) ≠ s.tmcMsg then s.updMask ||| Field.tmcSg.mask else s.updMask } := by
  unfold publishSingle State.raiseIf
  by_cases h : (⟨p, Additional.zero⟩ : TmcMsg) = s.tmcMsg <;> simp [h, State.validate, State.invalidate, State.raise]

/-- The message a completed multi-group publishes (R272). -/
def State.assembled (s : State) : TmcMsg := ⟨s.newTmcMsg, unpack s.newTmcMsg.length.toNat s.optionalTmc⟩

theorem publishMulti_eq (s : State) :
    publishMulti s = { s with
      tmcMsg := s.assembled
      validFields := (s.validFields ||| Field.tmcMg.mask) &&& ~~~Field.tmcSg.mask
      updMask := if s.assembled ≠ s.tmcMsg then s.updMask ||| Field.tmcMg.mask else s.updMask } := by
  unfold publishMulti State.raiseIf State.assembled
  by_cases h : (⟨s.newTmcMsg, unpack s.newTmcMsg.length.toNat s.optionalTmc⟩ : TmcMsg) = s.tmcMsg <;>
    simp [h, State.validate, State.invalidate, State.raise]

/-! ### Group 10 -/

theorem togglePtyn_eq (ab : Bool) (s : State) :
    togglePtyn ab s = { s with
      ptynAbFlag := ab
      ptyn := if ab = s.ptynAbFlag then s.ptyn else Vector.replicate _ 0
      newPtyn := if ab = s.ptynAbFlag then s.newPtyn else Vector.replicate _ (Vector.replicate _ 0)
      newPtynValid := if ab = s.ptynAbFlag then s.newPtynValid else Vector.replicate _ false
      validFields := if ab = s.ptynAbFlag then s.validFields else s.validFields &&& ~~~Field.ptyn.mask
      updMask := if ab = s.ptynAbFlag then s.updMask else s.updMask ||| Field.ptyn.mask } := by
  unfold togglePtyn
  by_cases h : ab = s.ptynAbFlag
  · simp [h]
  · simp [h, State.invalidate, State.raise]

theorem stagePtyn_agree {h : Fin 2} {p : Chars 4} {s : State} (hp : p = s.newPtyn[h]) :
    stagePtyn h p s = { s with newPtynValid := s.newPtynValid.set h true } := if_pos hp

theorem stagePtyn_differ {h : Fin 2} {p : Chars 4} {s : State} (hp : p ≠ s.newPtyn[h]) :
    stagePtyn h p s = { s with newPtyn := s.newPtyn.set h p, newPtynValid := s.newPtynValid.set h false } := if_neg hp

theorem publishPtyn_eq (s : State) :
    publishPtyn s = { s with
      ptyn := if s.newPtynValid[0] = true ∧ s.newPtynValid[1] = true then s.newPtyn[0] ++ s.newPtyn[1] else s.ptyn
      validFields :=
        if s.newPtynValid[0] = true ∧ s.newPtynValid[1] = true then s.validFields ||| Field.ptyn.mask else s.validFields
      updMask :=
        if (s.newPtynValid[0] = true ∧ s.newPtynValid[1] = true) ∧ s.newPtyn[0] ++ s.newPtyn[1] ≠ s.ptyn
        then s.updMask ||| Field.ptyn.mask else s.updMask } := by
  unfold publishPtyn State.raiseIf
  by_cases h : s.newPtynValid[0] = true ∧ s.newPtynValid[1] = true
  · by_cases h' : (s.newPtyn[0] ++ s.newPtyn[1] : Chars 8) = s.ptyn <;> simp [h, h', State.validate, State.raise]
  · simp [h]

/-! ### The decoders' dispatch -/

theorem runGroup_eq (i : Instr) (h : i.isGroup = true) (s : State) : runGroup i h s = exec i s := by
  cases i <;> first | rfl | exact nomatch h

theorem runBlock_eq (i : Instr) (h : i.isBlock = true) (s : State) : runBlock i h s = exec i s := by
  cases i <;> first | rfl | exact nomatch h

end Sys2Proof.Machine
end

