-- ==== Sys2Proof/Laws/Groups.lean ====
section
/-! SUPPORT. A GROUP row's meaning in one form: the common extractors over the encoded blocks, then the decoder of the row. -/

namespace Sys2Proof.Machine

/-- The Group record of composed blocks (R143). -/
theorem ofBlocks_blockB (pi : Word) (gid : BitVec 4) (ver : Version) (tp : Bool) (pty low : BitVec 5) (c d : Word) :
    Group.ofBlocks ⟨pi, blockB gid ver tp pty low, c, d⟩ = groupRecord pi gid ver low c d := by
  unfold Group.ofBlocks
  rw [blockB_gid, blockB_ver, ofBit_bit, blockB_low_all]

/-- The decoder of a GROUP row (R148): what runs after the common extractors, by the row alone. -/
def rowDecoder (i : Instr) (p : GroupBlocks) : State → State :=
  match i with
  | .g0a _ _ _ ta ms dibit seg af1 af2 c0 c1 => fun s => addAfPair af1 af2 (basicTuning ta ms dibit seg c0 c1 s)
  | .g0b _ _ _ ta ms dibit seg _ c0 c1 => basicTuning ta ms dibit seg c0 c1
  | .g1aEcc _ _ _ _ _ _ ecc _ => observeEcc ecc
  | .g1aLc _ _ _ _ _ _ lc _ => observeLc lc
  | .g2a _ _ _ ab seg c0 c1 c2 c3 => radioText ab seg (storeRtA seg c0 c1 c2 c3) 64
  | .g2b _ _ _ ab seg _ c0 c1 => radioText ab seg (storeRtB seg c0 c1) 32
  | .g3aTmcSys0 _ _ _ gid ver _ ltn afi enhancedMode mgs aid => fun s =>
      stageTmcSys (Group.ofBlocks p) (tmcSys0 ltn afi enhancedMode mgs) (updateOda gid ver aid s)
  | .g3aTmcSys1 _ _ _ gid ver gap sid tA tW tD aid => fun s =>
      stageTmcSys (Group.ofBlocks p) (tmcSys1 gap sid tA tW tD) (updateOda gid ver aid s)
  | .g3aTmcSysX _ _ _ gid ver _ _ aid => fun s => stageTmcSys (Group.ofBlocks p) id (updateOda gid ver aid s)
  | .g3a _ _ _ gid ver _ aid => updateOda gid ver aid
  | .g4a _ _ _ _ mjd hour minute sign mag => observeMjd mjd (civilTime mjd hour minute sign mag)
  | .g8aTi .. => tmcGate (Group.ofBlocks p) id
  | .g8aSg _ _ _ dp div dir extent event loc => tmcGate (Group.ofBlocks p) (publishSingle (tmcPrimary dp div dir extent event loc))
  | .g8aMg1 _ _ _ ci dir extent event loc => tmcGate (Group.ofBlocks p) (startMulti ci (tmcPrimary 0 true dir extent event loc))
  | .g8aMg2 _ _ _ ci gsi window => tmcGate (Group.ofBlocks p) (secondMulti ci gsi window)
  | .g8aMgn _ _ _ ci gsi window => tmcGate (Group.ofBlocks p) (nextMulti ci gsi window)
  | .g10a _ _ _ ab _ seg c0 c1 c2 c3 => fun s => publishPtyn (stagePtyn (ptynHalf seg) #v[c0, c1, c2, c3] (togglePtyn ab s))
  | .g1aV1 .. | .g1aV2 .. | .g1aV4_7 .. | .g1b .. | .g3b .. | .g4b .. | .g5 .. | .g6 .. | .g7 .. | .g8b .. | .g9 .. | .g10b ..
  | .g11 .. | .g12 .. | .g13 .. | .g14 .. | .g15 .. => id
  | .blkErr .. | .blkA .. | .blkB .. | .blkC .. | .blkD .. | .blkCp .. | .blkX5 .. | .blkX6 .. | .blkX7 .. => id
  | .create .. | .destroy | .reset .. | .add .. | .getGroup | .read .. | .lookupIndex => id

/-- The state a GROUP row leaves. -/
def afterGroup (i : Instr) (p : GroupBlocks) (s : State) : State :=
  rowDecoder i p (commonExtractors (Group.ofBlocks p) (p.b.getLsbD 10) (p.b.extractLsb' 5 5) s.clearOutputs)

/-- A GROUP row is the common extractors over its blocks and then its decoder, in an instance or not. -/
theorem exec_group {i : Instr} {p : GroupBlocks} (h : encodeGroup i = some p) (s : State) :
    exec i s = whenCreated s (afterGroup i p) := by
  cases i <;> cases h
  all_goals
    unfold afterGroup
    simp only [rowDecoder, ofBlocks_blockB, blockB_tp, blockB_pty]
    rfl

/-- Everything a GROUP row can answer in an instance. -/
theorem exec_group_next {i : Instr} {p : GroupBlocks} {s : State} (h : encodeGroup i = some p) (hc : s.created = true) :
    exec i s = .next (afterGroup i p s) := by rw [exec_group h, whenCreated_of_created hc]

end Sys2Proof.Machine
end

