-- ==== Sys2Proof/Laws/Frames.lean ====
section
/-! SUPPORT. What each shared operation leaves alone: one lemma on the registers and one on the bits of the two flag words per
operation, and the two for a whole GROUP row. -/

namespace Sys2Proof.Machine

/-! ### Composing frames -/

theorem Component.same_refl (c : Component) (s : State) : c.same s s := by cases c <;> rfl

theorem Component.same_trans {c : Component} {s t u : State} (h : c.same s t) (h' : c.same t u) : c.same s u := by
  cases c <;> exact Eq.trans h h'

theorem Untouched.refl (cs : List Component) (s : State) : Untouched cs s s := fun c _ => c.same_refl s

theorem Untouched.trans {cs cs' : List Component} {s t u : State} (h : Untouched cs s t) (h' : Untouched cs' t u) :
    Untouched (cs ++ cs') s u := fun c hc =>
  Component.same_trans (h c fun m => hc (List.mem_append_left _ m)) (h' c fun m => hc (List.mem_append_right _ m))

theorem Untouched.mono {cs cs' : List Component} {s t : State} (h : Untouched cs s t) (hs : ∀ c ∈ cs, c ∈ cs') : Untouched cs' s t :=
  fun c hc => h c fun m => hc (hs c m)

/-- Every bit but the listed ones is as before, in both flag words. -/
def BitsKept (fs : List Field) (s t : State) : Prop :=
  ∀ k : Nat, (∀ f ∈ fs, f.pos ≠ k) →
    t.validFields.getLsbD k = s.validFields.getLsbD k ∧ t.updMask.getLsbD k = s.updMask.getLsbD k

theorem BitsKept.refl (fs : List Field) (s : State) : BitsKept fs s s := fun _ _ => ⟨rfl, rfl⟩

theorem BitsKept.trans {fs fs' : List Field} {s t u : State} (h : BitsKept fs s t) (h' : BitsKept fs' t u) :
    BitsKept (fs ++ fs') s u := fun k hk =>
  have a := h k fun f m => hk f (List.mem_append_left _ m)
  have b := h' k fun f m => hk f (List.mem_append_right _ m)
  ⟨b.1.trans a.1, b.2.trans a.2⟩

theorem BitsKept.mono {fs fs' : List Field} {s t : State} (h : BitsKept fs s t) (hs : ∀ f ∈ fs, f ∈ fs') : BitsKept fs' s t :=
  fun k hk => h k fun f m => hk f (hs f m)

/-- An update of registers other than the flag words keeps every bit. -/
theorem BitsKept.of_eq {fs : List Field} {s t : State} (hv : t.validFields = s.validFields) (hm : t.updMask = s.updMask) :
    BitsKept fs s t := fun k _ => ⟨by rw [hv], by rw [hm]⟩

/-! ### One bit -/

theorem Field.pos_lt (f : Field) : f.pos < 17 := by cases f <;> decide

theorem Field.pos_inj {f g : Field} (h : f.pos = g.pos) : f = g := by cases f <;> cases g <;> first | rfl | exact absurd h (by decide)

/-- The bits of a mask. -/
theorem Field.getLsbD_mask (f : Field) (k : Nat) : f.mask.getLsbD k = decide (f.pos = k) := by
  have hf := f.pos_lt
  unfold Field.mask
  rw [BitVec.getLsbD_shiftLeft]
  by_cases hk : k < 32
  · by_cases he : f.pos = k
    · subst he; simp [hk]
    · by_cases hl : k < f.pos
      · simp [hl, he]
      · have : k - f.pos ≠ 0 := by omega
        simp [hk, he, this]
  · have : f.pos ≠ k := by omega
    simp [hk, this]

theorem getLsbD_or_mask (v : Mask) (f : Field) (k : Nat) : (v ||| f.mask).getLsbD k = (v.getLsbD k || decide (f.pos = k)) := by
  rw [BitVec.getLsbD_or, f.getLsbD_mask]

theorem getLsbD_clear_mask (v : Mask) (f : Field) (k : Nat) :
    (v &&& ~~~f.mask).getLsbD k = (v.getLsbD k && !decide (f.pos = k)) := by
  rw [BitVec.getLsbD_and, BitVec.getLsbD_not, f.getLsbD_mask]
  by_cases hk : k < 32
  · simp [hk]
  · simp [BitVec.getLsbD_of_ge v k (by omega)]

theorem or_mask_other {v : Mask} {f : Field} {k : Nat} (h : f.pos ≠ k) : (v ||| f.mask).getLsbD k = v.getLsbD k := by
  rw [getLsbD_or_mask, decide_eq_false h, Bool.or_false]

theorem clear_mask_other {v : Mask} {f : Field} {k : Nat} (h : f.pos ≠ k) : (v &&& ~~~f.mask).getLsbD k = v.getLsbD k := by
  rw [getLsbD_clear_mask, decide_eq_false h, Bool.not_false, Bool.and_true]

theorem BitsKept.raise (f : Field) (s : State) : BitsKept [f] s (s.raise f) := fun _ hk =>
  ⟨rfl, or_mask_other (hk f (List.mem_singleton_self f))⟩

theorem BitsKept.raiseIf (f : Field) (b : Bool) (s : State) : BitsKept [f] s (s.raiseIf f b) := by
  unfold State.raiseIf; split
  · exact BitsKept.raise f s
  · exact BitsKept.refl _ _

theorem BitsKept.validate (f : Field) (s : State) : BitsKept [f] s (s.validate f) := fun _ hk =>
  ⟨or_mask_other (hk f (List.mem_singleton_self f)), rfl⟩

theorem BitsKept.invalidate (f : Field) (s : State) : BitsKept [f] s (s.invalidate f) := fun _ hk =>
  ⟨clear_mask_other (hk f (List.mem_singleton_self f)), rfl⟩

/-! ### The operations -/

theorem clearOutputs_untouched (s : State) : Untouched [.updMask, .readOut] s s.clearOutputs := by
  intro c hc; cases c <;> first | exact absurd (by decide) hc | rfl

theorem commonExtractors_untouched (g : Group) (tp : Bool) (pty : BitVec 5) (s : State) :
    Untouched [.pi, .newPi, .pty, .newPty, .tp, .rdsGroup, .stats, .validFields, .updMask] s (commonExtractors g tp pty s) := by
  rw [commonExtractors_eq]; intro c hc; cases c <;> first | exact absurd (by decide) hc | rfl

theorem commonExtractors_bits (g : Group) (tp : Bool) (pty : BitVec 5) (s : State) :
    BitsKept commonBits s (commonExtractors g tp pty s) := by
  rw [commonExtractors_eq]
  intro k hk
  have hpi : Field.pi.pos ≠ k := hk _ (by decide)
  have hpty : Field.pty.pos ≠ k := hk _ (by decide)
  have htp : Field.tp.pos ≠ k := hk _ (by decide)
  refine ⟨?_, ?_⟩
  · simp only [commonValid, BitVec.getLsbD_or]
    split <;> split <;> simp [Field.getLsbD_mask, hpi, hpty, htp]
  · simp only [commonMask, BitVec.getLsbD_or]
    split <;> split <;> split <;> simp [Field.getLsbD_mask, hpi, hpty, htp]

theorem acceptTa_untouched (x : Bool) (s : State) : Untouched [.ta, .validFields, .updMask] s (acceptTa x s) := by
  rw [acceptTa_eq]; (intro c hc; cases c <;> first | exact absurd (by decide) hc | rfl)

theorem acceptTa_bits (x : Bool) (s : State) : BitsKept [.ta] s (acceptTa x s) := by
  intro k hk
  have h0 : Field.pos .ta ≠ k := hk _ (by decide)
  rw [acceptTa_eq]; (refine ⟨?_, ?_⟩ <;> dsimp only [State.raise, State.validate, State.invalidate] <;> (try split) <;>
    simp only [or_mask_other, clear_mask_other, ne_eq, h0, not_false_eq_true])

theorem acceptMs_untouched (x : Bool) (s : State) : Untouched [.ms, .validFields, .updMask] s (acceptMs x s) := by
  rw [acceptMs_eq]; (intro c hc; cases c <;> first | exact absurd (by decide) hc | rfl)

theorem acceptMs_bits (x : Bool) (s : State) : BitsKept [.ms] s (acceptMs x s) := by
  intro k hk
  have h0 : Field.pos .ms ≠ k := hk _ (by decide)
  rw [acceptMs_eq]; (refine ⟨?_, ?_⟩ <;> dsimp only [State.raise, State.validate, State.invalidate] <;> (try split) <;>
    simp only [or_mask_other, clear_mask_other, ne_eq, h0, not_false_eq_true])

theorem addPs_untouched (pos : Fin 8) (ch : Byte) (s : State) : Untouched [.newPs, .newPsValid] s (addPs pos ch s) := by
  rw [addPs_eq]; (intro c hc; cases c <;> first | exact absurd (by decide) hc | rfl)

theorem addPs_bits (pos : Fin 8) (ch : Byte) (s : State) : BitsKept [] s (addPs pos ch s) := by
  rw [addPs_eq]; exact BitsKept.of_eq rfl rfl

theorem publishPs_untouched (s : State) : Untouched [.ps, .validFields, .updMask] s (publishPs s) := by
  rw [publishPs_eq]; (intro c hc; cases c <;> first | exact absurd (by decide) hc | rfl)

theorem publishPs_bits (s : State) : BitsKept [.ps] s (publishPs s) := by
  intro k hk
  have h0 : Field.pos .ps ≠ k := hk _ (by decide)
  rw [publishPs_eq]; (refine ⟨?_, ?_⟩ <;> dsimp only [State.raise, State.validate, State.invalidate] <;> (try split) <;>
    simp only [or_mask_other, clear_mask_other, ne_eq, h0, not_false_eq_true])

/-- Whatever the segment, one of four things happens (R165, R166). -/
theorem stepDi_cases (seg : BitVec 2) (b : Bool) (s : State) {motive : State → Prop}
    (zero : seg = 0 → motive { s with newDi := setBit 0 0 b, nextDiSegment := 1 })
    (expected : seg ≠ 0 → seg = s.nextDiSegment → seg ≠ 3 →
      motive { s with newDi := setBit s.newDi seg.toNat b, nextDiSegment := seg + 1 })
    (last : seg = 3 → s.nextDiSegment = 3 → motive { s with
      newDi := setBit s.newDi 3 b
      nextDiSegment := 0
      di := setBit s.newDi 3 b
      validFields := s.validFields ||| Field.di.mask
      updMask := if setBit s.newDi 3 b != s.di then s.updMask ||| Field.di.mask else s.updMask })
    (other : seg ≠ 0 → seg ≠ s.nextDiSegment → motive { s with newDi := 0, nextDiSegment := 0 }) :
    motive (stepDi seg b s) := by
  by_cases h0 : seg = 0
  · subst h0; exact zero rfl
  by_cases hn : seg = s.nextDiSegment
  · by_cases h3 : seg = 3
    · subst h3; rw [stepDi_last hn.symm]; exact last rfl hn.symm
    · rw [stepDi_expected h0 hn h3]; exact expected h0 hn h3
  · rw [stepDi_other h0 hn]; exact other h0 hn

theorem stepDi_untouched (seg : BitVec 2) (b : Bool) (s : State) :
    Untouched [.newDi, .nextDiSegment, .di, .validFields, .updMask] s (stepDi seg b s) := by
  refine stepDi_cases seg b s (fun _ => ?_) (fun _ _ _ => ?_) (fun _ _ => ?_) (fun _ _ => ?_) <;>
    (intro c hc; cases c <;> first | exact absurd (by decide) hc | rfl)

theorem stepDi_bits (seg : BitVec 2) (b : Bool) (s : State) : BitsKept [.di] s (stepDi seg b s) := by
  refine stepDi_cases seg b s (fun _ => BitsKept.of_eq rfl rfl) (fun _ _ _ => BitsKept.of_eq rfl rfl) (fun _ _ => ?_)
    (fun _ _ => BitsKept.of_eq rfl rfl)
  intro k hk
  have h0 : Field.pos .di ≠ k := hk _ (by decide)
  refine ⟨or_mask_other h0, ?_⟩
  dsimp only; split
  · exact or_mask_other h0
  · rfl

theorem addAfPair_untouched (b1 b2 : Byte) (s : State) : Untouched [.rdsAf, .validFields, .updMask] s (addAfPair b1 b2 s) := by
  rw [addAfPair_eq]; (intro c hc; cases c <;> first | exact absurd (by decide) hc | rfl)

theorem addAfPair_bits (b1 b2 : Byte) (s : State) : BitsKept [.af] s (addAfPair b1 b2 s) := by
  intro k hk
  have h0 : Field.pos .af ≠ k := hk _ (by decide)
  rw [addAfPair_eq]; (refine ⟨?_, ?_⟩ <;> dsimp only [State.raise, State.validate, State.invalidate] <;> (try split) <;>
    simp only [or_mask_other, clear_mask_other, ne_eq, h0, not_false_eq_true])

theorem observeEcc_untouched (x : Byte) (s : State) : Untouched [.ecc, .newEcc, .validFields, .updMask] s (observeEcc x s) := by
  rw [observeEcc_eq]; (intro c hc; cases c <;> first | exact absurd (by decide) hc | rfl)

theorem observeEcc_bits (x : Byte) (s : State) : BitsKept [.ecc] s (observeEcc x s) := by
  intro k hk
  have h0 : Field.pos .ecc ≠ k := hk _ (by decide)
  rw [observeEcc_eq]; (refine ⟨?_, ?_⟩ <;> dsimp only [State.raise, State.validate, State.invalidate] <;> (try split) <;>
    simp only [or_mask_other, clear_mask_other, ne_eq, h0, not_false_eq_true])

theorem observeLc_untouched (x : Byte) (s : State) : Untouched [.lc, .newLc, .validFields, .updMask] s (observeLc x s) := by
  rw [observeLc_eq]; (intro c hc; cases c <;> first | exact absurd (by decide) hc | rfl)

theorem observeLc_bits (x : Byte) (s : State) : BitsKept [.lc] s (observeLc x s) := by
  intro k hk
  have h0 : Field.pos .lc ≠ k := hk _ (by decide)
  rw [observeLc_eq]; (refine ⟨?_, ?_⟩ <;> dsimp only [State.raise, State.validate, State.invalidate] <;> (try split) <;>
    simp only [or_mask_other, clear_mask_other, ne_eq, h0, not_false_eq_true])

theorem toggleRt_untouched (ab : Bool) (s : State) : Untouched [.rtAbFlag, .newRt, .rt, .rtLength, .nextRtSegment, .validFields, .updMask] s (toggleRt ab s) := by
  rw [toggleRt_eq]; (intro c hc; cases c <;> first | exact absurd (by decide) hc | rfl)

theorem toggleRt_bits (ab : Bool) (s : State) : BitsKept [.rt] s (toggleRt ab s) := by
  intro k hk
  have h0 : Field.pos .rt ≠ k := hk _ (by decide)
  rw [toggleRt_eq]; (refine ⟨?_, ?_⟩ <;> dsimp only [State.raise, State.validate, State.invalidate] <;> (try split) <;>
    simp only [or_mask_other, clear_mask_other, ne_eq, h0, not_false_eq_true])

theorem publishRt_untouched (len : Nat) (s : State) : Untouched [.rt, .rtLength, .nextRtSegment, .validFields] s (publishRt len s) := by
  rw [publishRt_eq]; (intro c hc; cases c <;> first | exact absurd (by decide) hc | rfl)

theorem publishRt_bits (len : Nat) (s : State) : BitsKept [.rt] s (publishRt len s) := by
  intro k hk
  have h0 : Field.pos .rt ≠ k := hk _ (by decide)
  rw [publishRt_eq]
  exact ⟨by dsimp only; simp only [or_mask_other, ne_eq, h0, not_false_eq_true], rfl⟩

theorem reportRt_untouched (before s : State) : Untouched [.updMask] s (reportRt before s) := by
  rw [reportRt_eq]; (intro c hc; cases c <;> first | exact absurd (by decide) hc | rfl)

theorem reportRt_bits (before s : State) : BitsKept [.rt] s (reportRt before s) := by
  intro k hk
  have h0 : Field.pos .rt ≠ k := hk _ (by decide)
  rw [reportRt_eq]
  refine ⟨rfl, ?_⟩
  dsimp only
  split <;> simp only [or_mask_other, ne_eq, h0, not_false_eq_true]

theorem updateOda_untouched (gid : BitVec 4) (ver : Version) (aid : Word) (s : State) : Untouched [.rdsOda, .decodeInformation, .updMask] s (updateOda gid ver aid s) := by
  rw [updateOda_eq]; (intro c hc; cases c <;> first | exact absurd (by decide) hc | rfl)

theorem updateOda_bits (gid : BitVec 4) (ver : Version) (aid : Word) (s : State) : BitsKept [.oda] s (updateOda gid ver aid s) := by
  intro k hk
  have h0 : Field.pos .oda ≠ k := hk _ (by decide)
  rw [updateOda_eq]; (refine ⟨?_, ?_⟩ <;> dsimp only [State.raise, State.validate, State.invalidate] <;> (try split) <;>
    simp only [or_mask_other, clear_mask_other, ne_eq, h0, not_false_eq_true])

theorem setTmcSys_untouched (v : TmcSys) (s : State) : Untouched [.tmcSys, .validFields, .updMask] s (setTmcSys v s) := by
  rw [setTmcSys_eq]; (intro c hc; cases c <;> first | exact absurd (by decide) hc | rfl)

theorem setTmcSys_bits (v : TmcSys) (s : State) : BitsKept [.tmcSys] s (setTmcSys v s) := by
  intro k hk
  have h0 : Field.pos .tmcSys ≠ k := hk _ (by decide)
  rw [setTmcSys_eq]; (refine ⟨?_, ?_⟩ <;> dsimp only [State.raise, State.validate, State.invalidate] <;> (try split) <;>
    simp only [or_mask_other, clear_mask_other, ne_eq, h0, not_false_eq_true])

theorem observeMjd_untouched (mjd : BitVec 17) (v : CivilTime) (s : State) : Untouched [.newMjd, .time, .validFields, .updMask] s (observeMjd mjd v s) := by
  rw [observeMjd_eq]; (intro c hc; cases c <;> first | exact absurd (by decide) hc | rfl)

theorem observeMjd_bits (mjd : BitVec 17) (v : CivilTime) (s : State) : BitsKept [.time] s (observeMjd mjd v s) := by
  intro k hk
  have h0 : Field.pos .time ≠ k := hk _ (by decide)
  rw [observeMjd_eq]; (refine ⟨?_, ?_⟩ <;> dsimp only [State.raise, State.validate, State.invalidate] <;> (try split) <;>
    simp only [or_mask_other, clear_mask_other, ne_eq, h0, not_false_eq_true])

theorem publishSingle_untouched (v : TmcPending) (s : State) : Untouched [.tmcMsg, .validFields, .updMask] s (publishSingle v s) := by
  rw [publishSingle_eq]; (intro c hc; cases c <;> first | exact absurd (by decide) hc | rfl)

theorem publishSingle_bits (v : TmcPending) (s : State) : BitsKept [.tmcSg, .tmcMg] s (publishSingle v s) := by
  intro k hk
  have h0 : Field.pos .tmcSg ≠ k := hk _ (by decide); have h1 : Field.pos .tmcMg ≠ k := hk _ (by decide)
  rw [publishSingle_eq]; (refine ⟨?_, ?_⟩ <;> dsimp only [State.raise, State.validate, State.invalidate] <;> (try split) <;>
    simp only [or_mask_other, clear_mask_other, ne_eq, h0, h1, not_false_eq_true])

theorem publishMulti_untouched (s : State) : Untouched [.tmcMsg, .validFields, .updMask] s (publishMulti s) := by
  rw [publishMulti_eq]; (intro c hc; cases c <;> first | exact absurd (by decide) hc | rfl)

theorem publishMulti_bits (s : State) : BitsKept [.tmcSg, .tmcMg] s (publishMulti s) := by
  intro k hk
  have h0 : Field.pos .tmcSg ≠ k := hk _ (by decide); have h1 : Field.pos .tmcMg ≠ k := hk _ (by decide)
  rw [publishMulti_eq]; (refine ⟨?_, ?_⟩ <;> dsimp only [State.raise, State.validate, State.invalidate] <;> (try split) <;>
    simp only [or_mask_other, clear_mask_other, ne_eq, h0, h1, not_false_eq_true])

theorem startMulti_untouched (ci : BitVec 3) (v : TmcPending) (s : State) : Untouched [.newTmcMsg, .continuityId, .grpSeqId, .optionalTmc] s (startMulti ci v s) := by
  unfold startMulti; (intro c hc; cases c <;> first | exact absurd (by decide) hc | rfl)

theorem startMulti_bits (ci : BitVec 3) (v : TmcPending) (s : State) : BitsKept [] s (startMulti ci v s) := by
  unfold startMulti; exact BitsKept.of_eq rfl rfl

theorem togglePtyn_untouched (ab : Bool) (s : State) : Untouched [.ptynAbFlag, .ptyn, .newPtyn, .newPtynValid, .validFields, .updMask] s (togglePtyn ab s) := by
  rw [togglePtyn_eq]; (intro c hc; cases c <;> first | exact absurd (by decide) hc | rfl)

theorem togglePtyn_bits (ab : Bool) (s : State) : BitsKept [.ptyn] s (togglePtyn ab s) := by
  intro k hk
  have h0 : Field.pos .ptyn ≠ k := hk _ (by decide)
  rw [togglePtyn_eq]; (refine ⟨?_, ?_⟩ <;> dsimp only [State.raise, State.validate, State.invalidate] <;> (try split) <;>
    simp only [or_mask_other, clear_mask_other, ne_eq, h0, not_false_eq_true])

theorem stagePtyn_untouched (h : Fin 2) (v : Chars 4) (s : State) : Untouched [.newPtyn, .newPtynValid] s (stagePtyn h v s) := by
  unfold stagePtyn; split <;> (intro c hc; cases c <;> first | exact absurd (by decide) hc | rfl)

theorem stagePtyn_bits (h : Fin 2) (v : Chars 4) (s : State) : BitsKept [] s (stagePtyn h v s) := by
  unfold stagePtyn; split <;> exact BitsKept.of_eq rfl rfl

theorem publishPtyn_untouched (s : State) : Untouched [.ptyn, .validFields, .updMask] s (publishPtyn s) := by
  rw [publishPtyn_eq]; (intro c hc; cases c <;> first | exact absurd (by decide) hc | rfl)

theorem publishPtyn_bits (s : State) : BitsKept [.ptyn] s (publishPtyn s) := by
  intro k hk
  have h0 : Field.pos .ptyn ≠ k := hk _ (by decide)
  rw [publishPtyn_eq]; (refine ⟨?_, ?_⟩ <;> dsimp only [State.raise, State.validate, State.invalidate] <;> (try split) <;>
    simp only [or_mask_other, clear_mask_other, ne_eq, h0, not_false_eq_true])

theorem stageTmcSys_untouched {cs : List Component} {f : State → State} (hf : ∀ s, Untouched cs s (f s)) (g : Group) (s : State) :
    Untouched (.prevTmcSysGroup :: cs) s (stageTmcSys g f s) := by
  have h : Untouched [.prevTmcSysGroup] s { s with prevTmcSysGroup := g } := by
    intro c hc; cases c <;> first | exact absurd (by decide) hc | rfl
  by_cases hg : g = s.prevTmcSysGroup
  · rw [stageTmcSys_hit hg]; exact h.trans (hf _)
  · rw [stageTmcSys_miss hg]; exact h.mono fun c m => by rw [List.mem_singleton.mp m]; exact List.mem_cons_self

theorem stageTmcSys_bits {fs : List Field} {f : State → State} (hf : ∀ s, BitsKept fs s (f s)) (g : Group) (s : State) :
    BitsKept fs s (stageTmcSys g f s) := by
  by_cases hg : g = s.prevTmcSysGroup
  · rw [stageTmcSys_hit hg]; exact hf { s with prevTmcSysGroup := g }
  · rw [stageTmcSys_miss hg]; exact BitsKept.of_eq rfl rfl

theorem tmcGate_untouched {cs : List Component} {f : State → State} (hf : ∀ s, Untouched cs s (f s)) (g : Group) (s : State) :
    Untouched (.prevTmcGroup :: .prevTmcArmed :: cs) s (tmcGate g f s) := by
  by_cases hg : s.prevTmcArmed = true ∧ g = s.prevTmcGroup
  · rw [tmcGate_hit hg]
    have h : Untouched [.prevTmcGroup, .prevTmcArmed] s { s with prevTmcArmed := false } := by
      intro c hc; cases c <;> first | exact absurd (by decide) hc | rfl
    exact h.trans (hf _)
  · rw [tmcGate_miss hg]
    have h : Untouched [.prevTmcGroup, .prevTmcArmed] s { s with prevTmcGroup := g, prevTmcArmed := true } := by
      intro c hc; cases c <;> first | exact absurd (by decide) hc | rfl
    exact h.mono fun c m => List.mem_append_left cs m

theorem tmcGate_bits {fs : List Field} {f : State → State} (hf : ∀ s, BitsKept fs s (f s)) (g : Group) (s : State) :
    BitsKept fs s (tmcGate g f s) := by
  by_cases hg : s.prevTmcArmed = true ∧ g = s.prevTmcGroup
  · rw [tmcGate_hit hg]; exact hf { s with prevTmcArmed := false }
  · rw [tmcGate_miss hg]; exact BitsKept.of_eq rfl rfl

/-! ### Composed operations -/

theorem basicTuning_untouched (ta ms dibit : Bool) (seg : BitVec 2) (c0 c1 : Byte) (s : State) :
    Untouched [.ta, .ms, .newPs, .newPsValid, .ps, .newDi, .nextDiSegment, .di, .validFields, .updMask] s
      (basicTuning ta ms dibit seg c0 c1 s) := by
  refine Untouched.mono ((((((acceptTa_untouched ta s).trans (acceptMs_untouched ms _)).trans (addPs_untouched _ c0 _)).trans
    (addPs_untouched _ c1 _)).trans (publishPs_untouched _)).trans (stepDi_untouched seg dibit _)) ?_
  decide

theorem basicTuning_bits (ta ms dibit : Bool) (seg : BitVec 2) (c0 c1 : Byte) (s : State) :
    BitsKept [.ta, .ms, .ps, .di] s (basicTuning ta ms dibit seg c0 c1 s) := by
  refine BitsKept.mono ((((((acceptTa_bits ta s).trans (acceptMs_bits ms _)).trans (addPs_bits _ c0 _)).trans
    (addPs_bits _ c1 _)).trans (publishPs_bits _)).trans (stepDi_bits seg dibit _)) ?_
  decide

/-- The registers of the radio text. -/
def rtTouched : List Component := [.newRt, .rt, .rtLength, .nextRtSegment, .validFields, .updMask]

theorem terminateRt_untouched (s : State) : Untouched rtTouched s (terminateRt s) := by
  unfold terminateRt
  split
  · exact Untouched.refl _ _
  · rename_i k _
    have h : Untouched [.newRt] s { s with newRt := s.newRt.set k 0 } := by
      intro c hc; cases c <;> first | exact absurd (by decide) hc | rfl
    exact (h.trans (publishRt_untouched _ _)).mono (by decide)

theorem terminateRt_bits (s : State) : BitsKept [.rt] s (terminateRt s) := by
  unfold terminateRt
  split
  · exact BitsKept.refl _ _
  · rename_i k _; exact publishRt_bits k.val { s with newRt := s.newRt.set k 0 }

theorem takeRtSegment_untouched {store : State → State} (hs : ∀ s, Untouched [.newRt, .nextRtSegment] s (store s))
    (seg : BitVec 4) (full : Nat) (s : State) : Untouched rtTouched s (takeRtSegment seg store full s) := by
  unfold takeRtSegment
  split
  · split
    · exact ((hs s).trans (publishRt_untouched _ _)).mono (by decide)
    · exact (hs s).mono (by decide)
  · exact Untouched.refl _ _

theorem takeRtSegment_bits {store : State → State} (hs : ∀ s, BitsKept [.rt] s (store s))
    (seg : BitVec 4) (full : Nat) (s : State) : BitsKept [.rt] s (takeRtSegment seg store full s) := by
  unfold takeRtSegment
  split
  · split
    · exact ((hs s).trans (publishRt_bits _ _)).mono (by decide)
    · exact hs s
  · exact BitsKept.refl _ _

theorem radioText_untouched (ab : Bool) {store : State → State} (hs : ∀ s, Untouched [.newRt, .nextRtSegment] s (store s))
    (seg : BitVec 4) (full : Nat) (s : State) : Untouched (.rtAbFlag :: rtTouched) s (radioText ab seg store full s) :=
  ((((toggleRt_untouched ab s).trans (takeRtSegment_untouched hs seg full _)).trans (terminateRt_untouched _)).trans
    (reportRt_untouched s _)).mono (by decide)

theorem radioText_bits (ab : Bool) {store : State → State} (hs : ∀ s, BitsKept [.rt] s (store s))
    (seg : BitVec 4) (full : Nat) (s : State) : BitsKept [.rt] s (radioText ab seg store full s) :=
  ((((toggleRt_bits ab s).trans (takeRtSegment_bits hs seg full _)).trans (terminateRt_bits _)).trans (reportRt_bits s _)).mono
    (by decide)

theorem storeRtA_untouched (seg : BitVec 4) (c0 c1 c2 c3 : Byte) (s : State) :
    Untouched [.newRt, .nextRtSegment] s (storeRtA seg c0 c1 c2 c3 s) := by
  intro c hc; cases c <;> first | exact absurd (by decide) hc | rfl

theorem storeRtB_untouched (seg : BitVec 4) (c0 c1 : Byte) (s : State) :
    Untouched [.newRt, .nextRtSegment] s (storeRtB seg c0 c1 s) := by
  intro c hc; cases c <;> first | exact absurd (by decide) hc | rfl

theorem storeRtA_bits (seg : BitVec 4) (c0 c1 c2 c3 : Byte) (s : State) : BitsKept [.rt] s (storeRtA seg c0 c1 c2 c3 s) :=
  BitsKept.of_eq rfl rfl

theorem storeRtB_bits (seg : BitVec 4) (c0 c1 : Byte) (s : State) : BitsKept [.rt] s (storeRtB seg c0 c1 s) :=
  BitsKept.of_eq rfl rfl

/-- What a second or subsequent group of a TMC message may write. -/
def multiTouched : List Component := [.newTmcMsg, .grpSeqId, .optionalTmc, .tmcMsg, .validFields, .updMask]

theorem secondMulti_untouched (ci : BitVec 3) (gsi : BitVec 2) (window : BitVec 28) (s : State) :
    Untouched multiTouched s (secondMulti ci gsi window s) := by
  unfold secondMulti
  have h : Untouched [.newTmcMsg, .grpSeqId, .optionalTmc] s { s with
      grpSeqId := gsi
      optionalTmc := s.optionalTmc.set 0 (windowWord window)
      newTmcMsg := { s.newTmcMsg with length := 1 } } := by
    intro c hc; cases c <;> first | exact absurd (by decide) hc | rfl
  split
  · dsimp only; split
    · exact (h.trans (publishMulti_untouched _)).mono (by decide)
    · exact h.mono (by decide)
  · exact Untouched.refl _ _

theorem secondMulti_bits (ci : BitVec 3) (gsi : BitVec 2) (window : BitVec 28) (s : State) :
    BitsKept [.tmcSg, .tmcMg] s (secondMulti ci gsi window s) := by
  unfold secondMulti
  split
  · dsimp only; split
    · exact publishMulti_bits { s with
        grpSeqId := gsi
        optionalTmc := s.optionalTmc.set 0 (windowWord window)
        newTmcMsg := { s.newTmcMsg with length := 1 } }
    · exact BitsKept.of_eq rfl rfl
  · exact BitsKept.refl _ _

theorem nextMulti_untouched (ci : BitVec 3) (gsi : BitVec 2) (window : BitVec 28) (s : State) :
    Untouched multiTouched s (nextMulti ci gsi window s) := by
  unfold nextMulti
  split
  · rename_i hl
    have h : Untouched [.newTmcMsg, .grpSeqId, .optionalTmc] s { s with
        optionalTmc := s.optionalTmc.set s.newTmcMsg.length.toNat (windowWord window) hl
        newTmcMsg := { s.newTmcMsg with length := s.newTmcMsg.length + 1 }
        grpSeqId := gsi } := by
      intro c hc; cases c <;> first | exact absurd (by decide) hc | rfl
    split
    · dsimp only; split
      · exact (h.trans (publishMulti_untouched _)).mono (by decide)
      · exact h.mono (by decide)
    · exact Untouched.refl _ _
  · exact Untouched.refl _ _

theorem nextMulti_bits (ci : BitVec 3) (gsi : BitVec 2) (window : BitVec 28) (s : State) :
    BitsKept [.tmcSg, .tmcMg] s (nextMulti ci gsi window s) := by
  unfold nextMulti
  split
  · rename_i hl
    split
    · dsimp only; split
      · exact publishMulti_bits { s with
          optionalTmc := s.optionalTmc.set s.newTmcMsg.length.toNat (windowWord window) hl
          newTmcMsg := { s.newTmcMsg with length := s.newTmcMsg.length + 1 }
          grpSeqId := gsi }
      · exact BitsKept.of_eq rfl rfl
    · exact BitsKept.refl _ _
  · exact BitsKept.refl _ _

theorem tmcSys0_bits (ltn : BitVec 6) (afi enhancedMode : Bool) (mgs : BitVec 4) (s : State) :
    BitsKept [.tmcSys] s (tmcSys0 ltn afi enhancedMode mgs s) := setTmcSys_bits _ s

theorem tmcSys1_bits (gap : BitVec 2) (sid : BitVec 6) (tA tW tD : BitVec 2) (s : State) :
    BitsKept [.tmcSys] s (tmcSys1 gap sid tA tW tD s) := setTmcSys_bits _ s

/-! ### A whole GROUP row -/

/-- What a row's decoder may write, beyond the two flag words. -/
def rowTouched : Instr → List Component
  | .g0a .. => [.ta, .ms, .newPs, .newPsValid, .ps, .newDi, .nextDiSegment, .di, .rdsAf]
  | .g0b .. => [.ta, .ms, .newPs, .newPsValid, .ps, .newDi, .nextDiSegment, .di]
  | .g1aEcc .. => [.ecc, .newEcc]
  | .g1aLc .. => [.lc, .newLc]
  | .g2a .. | .g2b .. => [.rtAbFlag, .newRt, .rt, .rtLength, .nextRtSegment]
  | .g3aTmcSys0 .. | .g3aTmcSys1 .. => [.rdsOda, .decodeInformation, .prevTmcSysGroup, .tmcSys]
  | .g3aTmcSysX .. => [.rdsOda, .decodeInformation, .prevTmcSysGroup]
  | .g3a .. => [.rdsOda, .decodeInformation]
  | .g4a .. => [.newMjd, .time]
  | .g8aTi .. => [.prevTmcGroup, .prevTmcArmed]
  | .g8aSg .. => [.prevTmcGroup, .prevTmcArmed, .tmcMsg]
  | .g8aMg1 .. => [.prevTmcGroup, .prevTmcArmed, .newTmcMsg, .continuityId, .grpSeqId, .optionalTmc]
  | .g8aMg2 .. | .g8aMgn .. => [.prevTmcGroup, .prevTmcArmed, .newTmcMsg, .grpSeqId, .optionalTmc, .tmcMsg]
  | .g10a .. => [.ptynAbFlag, .ptyn, .newPtyn, .newPtynValid]
  | .g1aV1 .. | .g1aV2 .. | .g1aV4_7 .. | .g1b .. | .g3b .. | .g4b .. | .g5 .. | .g6 .. | .g7 .. | .g8b .. | .g9 .. | .g10b ..
  | .g11 .. | .g12 .. | .g13 .. | .g14 .. | .g15 .. => []
  | .blkErr .. | .blkA .. | .blkB .. | .blkC .. | .blkD .. | .blkCp .. | .blkX5 .. | .blkX6 .. | .blkX7 .. => []
  | .create .. | .destroy | .reset .. | .add .. | .getGroup | .read .. | .lookupIndex => []

/-- The bits a row's decoder may move. -/
def rowBits : Instr → List Field
  | .g0a .. => [.ta, .ms, .ps, .di, .af]
  | .g0b .. => [.ta, .ms, .ps, .di]
  | .g1aEcc .. => [.ecc]
  | .g1aLc .. => [.lc]
  | .g2a .. | .g2b .. => [.rt]
  | .g3aTmcSys0 .. | .g3aTmcSys1 .. => [.oda, .tmcSys]
  | .g3aTmcSysX .. | .g3a .. => [.oda]
  | .g4a .. => [.time]
  | .g8aSg .. | .g8aMg2 .. | .g8aMgn .. => [.tmcSg, .tmcMg]
  | .g10a .. => [.ptyn]
  | .g8aTi .. | .g8aMg1 .. => []
  | .g1aV1 .. | .g1aV2 .. | .g1aV4_7 .. | .g1b .. | .g3b .. | .g4b .. | .g5 .. | .g6 .. | .g7 .. | .g8b .. | .g9 .. | .g10b ..
  | .g11 .. | .g12 .. | .g13 .. | .g14 .. | .g15 .. => []
  | .blkErr .. | .blkA .. | .blkB .. | .blkC .. | .blkD .. | .blkCp .. | .blkX5 .. | .blkX6 .. | .blkX7 .. => []
  | .create .. | .destroy | .reset .. | .add .. | .getGroup | .read .. | .lookupIndex => []

theorem rowDecoder_untouched (i : Instr) (p : GroupBlocks) (s : State) :
    Untouched (rowTouched i ++ [.validFields, .updMask]) s (rowDecoder i p s) := by
  cases i with
  | g0a => exact ((basicTuning_untouched _ _ _ _ _ _ s).trans (addAfPair_untouched _ _ _)).mono (by dsimp only [rowTouched]; decide)
  | g0b => exact (basicTuning_untouched _ _ _ _ _ _ s).mono (by dsimp only [rowTouched]; decide)
  | g1aEcc => exact (observeEcc_untouched _ s).mono (by dsimp only [rowTouched]; decide)
  | g1aLc => exact (observeLc_untouched _ s).mono (by dsimp only [rowTouched]; decide)
  | g2a => exact (radioText_untouched _ (storeRtA_untouched _ _ _ _ _) _ _ s).mono (by dsimp only [rowTouched]; decide)
  | g2b => exact (radioText_untouched _ (storeRtB_untouched _ _ _) _ _ s).mono (by dsimp only [rowTouched]; decide)
  | g3aTmcSys0 => exact ((updateOda_untouched _ _ _ s).trans
      (stageTmcSys_untouched (fun s => setTmcSys_untouched _ s) _ _)).mono (by dsimp only [rowTouched]; decide)
  | g3aTmcSys1 => exact ((updateOda_untouched _ _ _ s).trans
      (stageTmcSys_untouched (fun s => setTmcSys_untouched _ s) _ _)).mono (by dsimp only [rowTouched]; decide)
  | g3aTmcSysX => exact ((updateOda_untouched _ _ _ s).trans
      (stageTmcSys_untouched (fun s => Untouched.refl [] s) _ _)).mono (by dsimp only [rowTouched]; decide)
  | g3a => exact (updateOda_untouched _ _ _ s).mono (by dsimp only [rowTouched]; decide)
  | g4a => exact (observeMjd_untouched _ _ s).mono (by dsimp only [rowTouched]; decide)
  | g8aTi => exact (tmcGate_untouched (fun s => Untouched.refl [] s) _ s).mono (by dsimp only [rowTouched]; decide)
  | g8aSg => exact (tmcGate_untouched (publishSingle_untouched _) _ s).mono (by dsimp only [rowTouched]; decide)
  | g8aMg1 => exact (tmcGate_untouched (startMulti_untouched _ _) _ s).mono (by dsimp only [rowTouched]; decide)
  | g8aMg2 => exact (tmcGate_untouched (secondMulti_untouched _ _ _) _ s).mono (by dsimp only [rowTouched]; decide)
  | g8aMgn => exact (tmcGate_untouched (nextMulti_untouched _ _ _) _ s).mono (by dsimp only [rowTouched]; decide)
  | g10a => exact (((togglePtyn_untouched _ s).trans (stagePtyn_untouched _ _ _)).trans (publishPtyn_untouched _)).mono (by dsimp only [rowTouched]; decide)
  | _ => exact Untouched.refl _ _

theorem rowDecoder_bits (i : Instr) (p : GroupBlocks) (s : State) : BitsKept (rowBits i) s (rowDecoder i p s) := by
  cases i with
  | g0a => exact ((basicTuning_bits _ _ _ _ _ _ s).trans (addAfPair_bits _ _ _)).mono (by dsimp only [rowBits]; decide)
  | g0b => exact basicTuning_bits _ _ _ _ _ _ s
  | g1aEcc => exact observeEcc_bits _ s
  | g1aLc => exact observeLc_bits _ s
  | g2a => exact radioText_bits _ (storeRtA_bits _ _ _ _ _) _ _ s
  | g2b => exact radioText_bits _ (storeRtB_bits _ _ _) _ _ s
  | g3aTmcSys0 =>
    exact ((updateOda_bits _ _ _ s).trans (stageTmcSys_bits (fs := [.tmcSys]) (tmcSys0_bits _ _ _ _) _ _)).mono (by dsimp only [rowBits]; decide)
  | g3aTmcSys1 =>
    exact ((updateOda_bits _ _ _ s).trans (stageTmcSys_bits (fs := [.tmcSys]) (tmcSys1_bits _ _ _ _ _) _ _)).mono (by dsimp only [rowBits]; decide)
  | g3aTmcSysX => exact ((updateOda_bits _ _ _ s).trans (stageTmcSys_bits (fun s => BitsKept.refl [] s) _ _)).mono (by dsimp only [rowBits]; decide)
  | g3a => exact updateOda_bits _ _ _ s
  | g4a => exact observeMjd_bits _ _ s
  | g8aTi => exact tmcGate_bits (fun s => BitsKept.refl [] s) _ s
  | g8aSg => exact tmcGate_bits (publishSingle_bits _) _ s
  | g8aMg1 => exact tmcGate_bits (startMulti_bits _ _) _ s
  | g8aMg2 => exact tmcGate_bits (secondMulti_bits _ _ _) _ s
  | g8aMgn => exact tmcGate_bits (nextMulti_bits _ _ _) _ s
  | g10a => exact (((togglePtyn_bits _ s).trans (stagePtyn_bits _ _ _)).trans (publishPtyn_bits _)).mono (by dsimp only [rowBits]; decide)
  | _ => exact BitsKept.refl _ _

/-- What a GROUP row leaves alone. -/
theorem afterGroup_untouched (i : Instr) (p : GroupBlocks) (s : State) :
    Untouched (commonTouched ++ rowTouched i) s (afterGroup i p s) :=
  (((clearOutputs_untouched s).trans (commonExtractors_untouched _ _ _ _)).trans (rowDecoder_untouched i p _)).mono fun c m => by
    simp only [List.mem_append] at m ⊢
    rcases m with (m | m) | m | m
    · exact .inl ((by decide : ∀ c ∈ [Component.updMask, .readOut], c ∈ commonTouched) c m)
    · exact .inl ((by decide : ∀ c ∈ [Component.pi, .newPi, .pty, .newPty, .tp, .rdsGroup, .stats, .validFields, .updMask],
        c ∈ commonTouched) c m)
    · exact .inr m
    · exact .inl ((by decide : ∀ c ∈ [Component.validFields, .updMask], c ∈ commonTouched) c m)

/-- The bits a GROUP row leaves alone. -/
theorem afterGroup_bits (i : Instr) (p : GroupBlocks) (s : State) : OtherBitsKept (commonBits ++ rowBits i) s (afterGroup i p s) :=
  fun k hk =>
    have h := (commonExtractors_bits (Group.ofBlocks p) (p.b.getLsbD 10) (p.b.extractLsb' 5 5) s.clearOutputs).trans
      (rowDecoder_bits i p _) k hk
    ⟨h.1, h.2.trans (by simp [State.clearOutputs])⟩

/-- The frame of a GROUP row. -/
theorem afterGroup_frame (i : Instr) (p : GroupBlocks) (s : State) : GroupFrame (rowTouched i) (rowBits i) s (afterGroup i p s) :=
  ⟨afterGroup_untouched i p s, afterGroup_bits i p s⟩

end Sys2Proof.Machine
end

