-- ==== Sys2Proof/Laws/Blocks.lean ====
section
/-! SUPPORT. The block assembler and the host operations in the form the proofs use: the meaning of each row as a guarded effect, what
entering a block does, and which label a composed control byte has. -/

namespace Sys2Proof.Machine

/-! ### The rows as guarded effects -/

theorem exec_blkErr (c : Bool) (u l : BitVec 3) (d : Word) (s : State) :
    exec (.blkErr c u l d) s = whenCreated s fun s => groupError (enterBlock true c s) := rfl

theorem exec_blkA (c : Bool) (u : BitVec 3) (d : Word) (s : State) :
    exec (.blkA c u d) s = whenCreated s fun s => takeA ⟨d, ctrlByte false c u 0⟩ (enterBlock false c s) := rfl

theorem exec_blkB (c : Bool) (u : BitVec 3) (d : Word) (s : State) :
    exec (.blkB c u d) s = whenCreated s fun s => takeB ⟨d, ctrlByte false c u 1⟩ (enterBlock false c s) := rfl

theorem exec_blkC (c : Bool) (u : BitVec 3) (d : Word) (s : State) :
    exec (.blkC c u d) s = whenCreated s fun s => takeC ⟨d, ctrlByte false c u 2⟩ (enterBlock false c s) := rfl

theorem exec_blkCp (c : Bool) (u : BitVec 3) (d : Word) (s : State) :
    exec (.blkCp c u d) s = whenCreated s fun s => takeC ⟨d, ctrlByte false c u 4⟩ (enterBlock false c s) := rfl

theorem exec_blkX5 (c : Bool) (u : BitVec 3) (d : Word) (s : State) :
    exec (.blkX5 c u d) s = whenCreated s fun s => groupError (enterBlock false c s) := rfl

theorem exec_blkX6 (c : Bool) (u : BitVec 3) (d : Word) (s : State) :
    exec (.blkX6 c u d) s = whenCreated s fun s => groupError (enterBlock false c s) := rfl

theorem exec_blkX7 (c : Bool) (u : BitVec 3) (d : Word) (s : State) :
    exec (.blkX7 c u d) s = whenCreated s fun s => groupError (enterBlock false c s) := rfl

/-- A block D outside CReceived (R127). -/
theorem exec_blkD_early (c : Bool) (u : BitVec 3) (d : Word) {s : State} (h : s.decodeState ≠ .cReceived) :
    exec (.blkD c u d) s = whenCreated s fun s => groupError (enterBlock false c s) := by
  show takeD _ _ = _
  unfold takeD
  have h' : (enterBlock false c s).decodeState ≠ .cReceived := h
  split
  · exact absurd ‹_› h'
  all_goals rfl

/-- A block D in CReceived (R126): the group's row, over the stored and counted block. -/
theorem exec_blkD_complete (c : Bool) (u : BitVec 3) (d : Word) {s : State} (h : s.decodeState = .cReceived) :
    exec (.blkD c u d) s = exec (decodeGroup (storeD ⟨d, ctrlByte false c u 3⟩ (enterBlock false c s)).rawGroup)
      (storeD ⟨d, ctrlByte false c u 3⟩ (enterBlock false c s)) := by
  show takeD _ _ = _
  unfold takeD
  have h' : (enterBlock false c s).decodeState = .cReceived := h
  split
  · rw [runGroup_eq]
  all_goals exact DecodeState.noConfusion (h'.symm.trans ‹_›)

theorem exec_destroy (s : State) : exec .destroy s = whenCreated s fun s => { s.clearOutputs with created := false } := rfl

theorem exec_reset (b : Bool) (s : State) :
    exec (.reset b) s = whenCreated s fun s => State.cleared s.isRbds (if b then s.stats else Statistics.zero) s.pending := rfl

theorem exec_getGroup (s : State) : exec .getGroup s = whenCreated s fun s => s.answer (.group s.rdsGroup) := rfl

theorem exec_read (r : PublicReg) (s : State) : exec (.read r) s = whenCreated s fun s => s.answer (s.readReg r) := rfl

theorem exec_lookupIndex (s : State) : exec .lookupIndex s = whenCreated s fun s => s.answer (.indices s.lookupIndices) := rfl

/-! ### The transitions -/

theorem takeA_empty {s : State} (h : s.decodeState = .empty) (r : RawBlock) :
    takeA r s = { s with rdsDataRaw := (Vector.replicate _ ⟨0, 0⟩).set 0 r, decodeState := .aReceived } := by simp only [takeA, h]

theorem takeA_other {s : State} (h : s.decodeState ≠ .empty) (r : RawBlock) : takeA r s = groupError s := by
  unfold takeA; split
  · exact absurd ‹_› h
  all_goals rfl

theorem takeB_aReceived {s : State} (h : s.decodeState = .aReceived) (r : RawBlock) :
    takeB r s = { s with rdsDataRaw := s.rdsDataRaw.set 1 r, decodeState := .bReceived } := by simp only [takeB, h]

theorem takeB_other {s : State} (h : s.decodeState ≠ .aReceived) (r : RawBlock) : takeB r s = groupError s := by
  unfold takeB; split
  · exact absurd ‹_› h
  all_goals rfl

theorem takeC_bReceived {s : State} (h : s.decodeState = .bReceived) (r : RawBlock) :
    takeC r s = { s with rdsDataRaw := s.rdsDataRaw.set 2 r, decodeState := .cReceived } := by simp only [takeC, h]

theorem takeC_other {s : State} (h : s.decodeState ≠ .bReceived) (r : RawBlock) : takeC r s = groupError s := by
  unfold takeC; split
  · exact absurd ‹_› h
  all_goals rfl

/-! ### Labels -/

theorem effectiveLabel_error (c : Bool) (u l : BitVec 3) : effectiveLabel (ctrlByte true c u l) = none := by
  unfold effectiveLabel; rw [ctrlByte_error]; rfl

theorem effectiveLabel_clean (c : Bool) (u l : BitVec 3) :
    effectiveLabel (ctrlByte false c u l) = match l.toNat with
      | 0 => some .a | 1 => some .b | 2 => some .c | 3 => some .d | 4 => some .cPrime | _ => none := by
  unfold effectiveLabel; rw [ctrlByte_error, ctrlByte_label]; rfl

/-! ### The frames -/

theorem enterBlock_untouched (e c : Bool) (s : State) : Untouched [.stats, .updMask, .readOut] s (enterBlock e c s) := by
  intro k hk; cases k <;> first | exact absurd (by decide) hk | rfl

theorem groupError_untouched (s : State) : Untouched [.stats, .decodeState] s (groupError s) := by
  intro k hk; cases k <;> first | exact absurd (by decide) hk | rfl

theorem storeD_untouched (r : RawBlock) (s : State) : Untouched [.rdsDataRaw, .decodeState, .stats] s (storeD r s) := by
  intro k hk; cases k <;> first | exact absurd (by decide) hk | rfl

end Sys2Proof.Machine
end

