-- ==== Sys2Proof/Tests/Slice0.lean ====
section
/-! SUPPORT. Tests. Expected words are composed by hand from the encodings of `30_encoding.md` R81 to R97 and the table of R104;
expected results are those of `95_test_vectors.md`, whose vector each test names, or worked by hand from the rule it names. -/

namespace Sys2Proof.Tests

open Sys2Proof.Machine

/-! ### Decoding: words written out from the spec's encodings -/

theorem test_decode_group0 :
    decodeGroup ⟨0x1234, 0x0000 ||| 1 <<< 10 ||| 10 <<< 5 ||| 1 <<< 4 ||| 0 <<< 3 ||| 1 <<< 2 ||| 3, 0xE304, 0x5354⟩
      = .g0a 0x1234 true 10 true false true 3 0xE3 0x04 0x53 0x54
    ∧ decodeGroup ⟨0x1234, 0x0800 ||| 0 <<< 10 ||| 31 <<< 5 ||| 0 <<< 4 ||| 1 <<< 3 ||| 0 <<< 2 ||| 2, 0xBEEF, 0x4154⟩
      = .g0b 0x1234 false 31 false true false 2 0xBEEF 0x41 0x54 := by decide

theorem test_decode_group1 :
    decodeGroup ⟨1, 0x1015, 0x8AE0, 0xFACE⟩ = .g1aEcc 1 false 0 0x15 true 0xA 0xE0 0xFACE
    ∧ decodeGroup ⟨1, 0x1000, 0x3009, 0⟩ = .g1aLc 1 false 0 0 false 0 0x09 0
    ∧ decodeGroup ⟨1, 0x1000, 0x1055, 2⟩ = .g1aV1 1 false 0 0 false 0x055 2
    ∧ decodeGroup ⟨1, 0x1000, 0xAFFF, 0⟩ = .g1aV2 1 false 0 0 true 0xFFF 0
    ∧ decodeGroup ⟨1, 0x1000, 0x4001, 0⟩ = .g1aV4_7 1 false 0 0 false 4 0x001 0
    ∧ decodeGroup ⟨1, 0x1000, 0x7001, 0⟩ = .g1aV4_7 1 false 0 0 false 7 0x001 0
    ∧ decodeGroup ⟨1, 0x1800, 0x00E3, 0⟩ = .g1b 1 false 0 0 0x00E3 0 := by decide

theorem test_decode_group2 :
    decodeGroup ⟨1, 0x2015, 0x4142, 0x4344⟩ = .g2a 1 false 0 true 5 0x41 0x42 0x43 0x44
    ∧ decodeGroup ⟨1, 0x280F, 0x1234, 0x2121⟩ = .g2b 1 false 0 false 15 0x1234 0x21 0x21 := by decide

theorem test_decode_group3 :
    decodeGroup ⟨1, 0x3010, 0x3065, 0xCD46⟩ = .g3aTmcSys0 1 false 0 8 .a 3 1 true false 5 0xCD46
    ∧ decodeGroup ⟨1, 0x3017, 0x5A9B, 0xCD47⟩ = .g3aTmcSys1 1 false 0 11 .b 1 0x2A 1 2 3 0xCD47
    ∧ decodeGroup ⟨1, 0x3010, 0x8FFF, 0xCD46⟩ = .g3aTmcSysX 1 false 0 8 .a 2 0x0FFF 0xCD46
    ∧ decodeGroup ⟨1, 0x3010, 0xC000, 0xCD47⟩ = .g3aTmcSysX 1 false 0 8 .a 3 0 0xCD47
    ∧ decodeGroup ⟨1, 0x3016, 0x0065, 0x4BD7⟩ = .g3a 1 false 0 11 .a 0x0065 0x4BD7
    ∧ decodeGroup ⟨1, 0x3810, 0, 0xCD46⟩ = .g3b 1 false 0 0x10 0 0xCD46 := by decide

theorem test_decode_group4 :
    decodeGroup ⟨1, 0x401D, 0x6144, 0xA782⟩ = .g4a 1 false 0 7 45218 10 30 false 2
    ∧ decodeGroup ⟨1, 0x4003, 0xFFFF, 0xFFFF⟩ = .g4a 1 false 0 0 131071 31 63 true 31
    ∧ decodeGroup ⟨1, 0x4801, 0x6144, 0xA782⟩ = .g4b 1 false 0 1 0x6144 0xA782 := by decide

theorem test_decode_group8 :
    decodeGroup ⟨1, 0x801B, 0x1120, 0xABCD⟩ = .g8aTi 1 false 0 true 3 0x1120 0xABCD
    ∧ decodeGroup ⟨1, 0x8013, 0x9120, 0xABCD⟩ = .g8aSg 1 false 0 3 true false 2 0x120 0xABCD
    ∧ decodeGroup ⟨1, 0x8005, 0xC8A1, 0x1234⟩ = .g8aMg1 1 false 0 5 true 1 0x0A1 0x1234
    ∧ decodeGroup ⟨1, 0x8005, 0x50A5, 0x197F⟩ = .g8aMg2 1 false 0 5 1 0x0A5197F
    ∧ decodeGroup ⟨1, 0x8005, 0x2F57, 0xDDFC⟩ = .g8aMgn 1 false 0 5 2 0xF57DDFC
    ∧ decodeGroup ⟨1, 0x8813, 0x1120, 0xABCD⟩ = .g8b 1 false 0 0x13 0x1120 0xABCD := by decide

theorem test_decode_group10 :
    decodeGroup ⟨1, 0xA01B, 0x4E45, 0x5753⟩ = .g10a 1 false 0 true 5 true 0x4E 0x45 0x57 0x53
    ∧ decodeGroup ⟨1, 0xA810, 0x4E45, 0x5753⟩ = .g10b 1 false 0 0x10 0x4E45 0x5753 := by decide

theorem test_decode_ignored_low :
    decodeGroup ⟨1, 0x5000, 2, 3⟩ = .g5 1 .a false 0 0 2 3 ∧ decodeGroup ⟨1, 0x5800, 2, 3⟩ = .g5 1 .b false 0 0 2 3
    ∧ decodeGroup ⟨1, 0x6C1F, 2, 3⟩ = .g6 1 .b true 0 0x1F 2 3 ∧ decodeGroup ⟨1, 0x7000, 2, 3⟩ = .g7 1 .a false 0 0 2 3
    ∧ decodeGroup ⟨1, 0x9020, 2, 3⟩ = .g9 1 .a false 1 0 2 3 := by decide

theorem test_decode_ignored_high :
    decodeGroup ⟨1, 0xB000, 2, 3⟩ = .g11 1 .a false 0 0 2 3 ∧ decodeGroup ⟨1, 0xC800, 2, 3⟩ = .g12 1 .b false 0 0 2 3
    ∧ decodeGroup ⟨1, 0xD000, 2, 3⟩ = .g13 1 .a false 0 0 2 3 ∧ decodeGroup ⟨1, 0xE000, 2, 3⟩ = .g14 1 .a false 0 0 2 3
    ∧ decodeGroup ⟨1, 0xF820, 2, 3⟩ = .g15 1 .b false 1 0 2 3 := by decide

/-- Control bytes of V11, V15 and V16. -/
theorem test_decode_blocks :
    decodeBlock ⟨7, 0x81⟩ = .blkErr false 0 1 7 ∧ decodeBlock ⟨7, 0xC1⟩ = .blkErr true 0 1 7 ∧ decodeBlock ⟨7, 0x38⟩ = .blkA false 7 7
    ∧ decodeBlock ⟨7, 0x41⟩ = .blkB true 0 7 ∧ decodeBlock ⟨7, 0x02⟩ = .blkC false 0 7 ∧ decodeBlock ⟨7, 0x43⟩ = .blkD true 0 7
    ∧ decodeBlock ⟨7, 0x04⟩ = .blkCp false 0 7 ∧ decodeBlock ⟨7, 0x05⟩ = .blkX5 false 0 7 ∧ decodeBlock ⟨7, 0x0E⟩ = .blkX6 false 1 7
    ∧ decodeBlock ⟨7, 0x07⟩ = .blkX7 false 0 7 := by decide

theorem test_decode_strobes :
    decodeOp (.createStb true) = .create true ∧ decodeOp .destroy = .destroy ∧ decodeOp (.resetStb true) = .reset true
    ∧ decodeOp (.blkStb 7 0x81) = .add 7 0x81 ∧ decodeOp .getGroup = .getGroup ∧ decodeOp (.read .pi) = .read .pi
    ∧ decodeOp .lookupIndex = .lookupIndex := by decide

/-- Bytes of another length are no instruction, and are named. -/
theorem test_decode_rejects : decodeBytes [] = .error (.wrongLength 0) ∧ decodeBytes [1, 2] = .error (.wrongLength 2) := by
  constructor <;> rfl

/-- The bytes of `[A=0x1234, B=0x8013, C=0x1120, D=0xABCD]` and of `A=0x1234`, least significant first (log 8). -/
theorem test_encode_bytes :
    encode (.g8aSg 0x1234 false 0 3 false false 2 0x120 0xABCD) = [0xCD, 0xAB, 0x20, 0x11, 0x13, 0x80, 0x34, 0x12]
    ∧ encode (.blkA false 0 0x1234) = [0x00, 0x34, 0x12] ∧ encode .destroy = [] := by decide

theorem test_table_words :
    decodeTableWord 64 0x0000300080 = some (.g0a 0 false 0 false false false 0 0x00 0x30 0x00 0x80)
    ∧ decodeTableWord 64 0x000030000000CD46 = some (.g3aTmcSys0 0 false 0 0 .a 0 0 false false 0 0xCD46)
    ∧ decodeTableWord 8 0x83 = some (.blkErr false 0 3 0) ∧ decodeTableWord 0 0 = none := by decide

/-- A table word placed with `withFetchWord` is what the next step runs: a group word, and a control byte. -/
theorem test_fetch_word :
    step (State.reset.withFetchWord 64 0x1234500000010002)
      = exec (.blkD false 0 2) { State.reset.stageGroup ⟨0x1234, 0x5000, 1, 2⟩ with pending := [] }
    ∧ step (State.reset.withFetchWord 8 0x01) = exec (.blkB false 0 0) State.reset := by
  constructor <;> rfl

/-! ### Ill-formed terms are refused by `wellFormed` -/

theorem test_wellFormed_variant4 :
    (Instr.g1aV4_7 0 false 0 0 false 3 0 0).wellFormed = false ∧ (Instr.g1aV4_7 0 false 0 0 false 4 0 0).wellFormed = true := by decide

theorem test_wellFormed_sys0 :
    (Instr.g3aTmcSys0 0 false 0 0 .a 0 0 false false 0 0xCD45).wellFormed = false
    ∧ (Instr.g3aTmcSys0 0 false 0 0 .a 0 0 false false 0 0xCD46).wellFormed = true := by decide

theorem test_wellFormed_sys1 :
    (Instr.g3aTmcSys1 0 false 0 0 .a 0 0 0 0 0 0xCD48).wellFormed = false
    ∧ (Instr.g3aTmcSys1 0 false 0 0 .a 0 0 0 0 0 0xCD47).wellFormed = true := by decide

theorem test_wellFormed_sysX_aid : (Instr.g3aTmcSysX 0 false 0 0 .a 2 0 0).wellFormed = false := by decide

theorem test_wellFormed_sysX_variant :
    (Instr.g3aTmcSysX 0 false 0 0 .a 1 0 0xCD46).wellFormed = false ∧ (Instr.g3aTmcSysX 0 false 0 0 .a 2 0 0xCD46).wellFormed = true := by
  decide

theorem test_wellFormed_g3a :
    (Instr.g3a 0 false 0 0 .a 0 0xCD47).wellFormed = false ∧ (Instr.g3a 0 false 0 0 .a 0 0x4BD7).wellFormed = true := by decide

/-! ### One step on a small state -/

/-- The state has that property after the answer. -/
def holdsAfter (o : Answer) (f : State → Bool) : Bool :=
  match o with
  | .next t => f t
  | .fault _ | .refused _ => false

/-- The group `[A=0x1234, B=b, C=c, D=d]` decoded, from that state. -/
def group (b c d : Word) (s : State) : Answer := exec (decodeGroup ⟨0x1234, b, c, d⟩) s

/-- The state after reset with PI accepted, as after the second group of V1. -/
def locked : State := { State.reset with pi := 0x1234, newPi := 0x1234, validFields := 0x71 }

/-- V1, second group: PI is accepted, and nothing else of a 0A group of zeros changes. -/
theorem test_g0a_pi : holdsAfter (group 0 0 0 { State.reset with newPi := 0x1234, validFields := 0x70 }) (fun t =>
    t.updMask == 0x1 && t.pi == 0x1234 && t.validFields == 0x71 && t.newPsValid[1] && !t.newPsValid[2]) = true := by decide

/-- V4, first row: an announcement and a frequency in one pair. -/
theorem test_g0a_af : holdsAfter (group 0 0xE304 0x2020 State.reset) (fun t =>
    t.updMask == 0x100 && t.rdsAf.announcedAf == 3 && t.rdsAf.entries == [87900000] && t.validFields == 0x70) = true := by decide

/-- V5, fourth row, in version B: segment 3 in order completes DI with the value 9. -/
theorem test_g0b_di : holdsAfter (group 0x0807 0x1234 0x2020 { locked with newDi := 1, nextDiSegment := 3 }) (fun t =>
    t.updMask == 0x80 && t.di == 9 && t.nextDiSegment == 0 && t.validFields == 0xF1) = true := by decide

/-- V18, last sentence: a 0B group carries no AF. -/
theorem test_g0b_af : holdsAfter (group 0x0800 0xE304 0x2020 State.reset) (fun t =>
    t.rdsAf == State.reset.rdsAf && t.newPs.toList == [0x20, 0x20, 0, 0, 0, 0, 0, 0]) = true := by decide

/-- V3, group 8: the last segment's second reception publishes "STATION!". -/
theorem test_g0a_ps : holdsAfter (group 0x0003 0xCDCD 0x4E21 { locked with
      newPs := #v[0x53, 0x54, 0x41, 0x54, 0x49, 0x4F, 0x4E, 0x21]
      newPsValid := #v[true, true, true, true, true, true, false, false] }) (fun t =>
    t.updMask == 0x4 && t.ps.toList == [0x53, 0x54, 0x41, 0x54, 0x49, 0x4F, 0x4E, 0x21] && t.isValid .ps) = true := by decide

/-- V6, second and third row. -/
theorem test_g1aEcc : holdsAfter (group 0x1000 0x00E0 0 { State.reset with newPi := 0x1234, newEcc := 0xE0, validFields := 0x10 })
    (fun t => t.updMask == 0x201 && t.ecc == 0xE0 && t.validFields == 0x211 &&
      holdsAfter (group 0x1000 0x00E0 0 t) (fun u => u.updMask == 0 && u.ecc == 0xE0)) = true := by decide

/-- V6, sixth row: groups of variant 0 in between do not disturb LC. -/
theorem test_g1aLc : holdsAfter (group 0x1000 0x3009 0 { locked with newLc := 9, ecc := 0xE0, newEcc := 0xE1 }) (fun t =>
    t.updMask == 0x400 && t.lc == 9 && t.newEcc == 0xE1) = true := by decide

/-- V6, the rows of variants 1 and 6, and variant 2: nothing. -/
theorem test_g1a_other : ([0x1055, 0x2055, 0x6000].all fun c => holdsAfter (group 0x1000 c 0 { locked with newLc := 9, newEcc := 0xE1 })
    (fun t => t.updMask == 0 && t.ecc == 0 && t.lc == 0 && t.newEcc == 0xE1 && t.newLc == 9)) = true := by decide

/-- V25: a 1B group leaves the ECC buffer alone. -/
theorem test_g1b : holdsAfter (group 0x1800 0x00E3 0 locked) (fun t => t.newEcc == 0 && t.stats.groupTypeCnt[1] == 1) = true := by decide

/-- V9, second row: "HELLO" and a carriage return. -/
theorem test_g2a_terminator : holdsAfter (group 0x2001 0x4F0D 0x2020 { State.reset with
      newPi := 0x1234
      newRt := ((((Vector.replicate _ 0).set 0 0x48).set 1 0x45).set 2 0x4C).set 3 0x4C
      nextRtSegment := 1 }) (fun t =>
    t.updMask == 0x9 && t.rtLength == 5 && t.rt.toList.take 8 == [0x48, 0x45, 0x4C, 0x4C, 0x4F, 0, 0, 0]
      && t.newRt.toList.take 8 == [0x48, 0x45, 0x4C, 0x4C, 0x4F, 0, 0x20, 0x20] && t.nextRtSegment == 0) = true := by decide

/-- V8: the other flag clears the text, and segment 5 is not accepted. -/
theorem test_g2a_toggle : holdsAfter (group 0x2015 0x4142 0x4344 { locked with
      rt := Vector.replicate _ 0x41, rtLength := 64, newRt := Vector.replicate _ 0x41, validFields := 0x19 }) (fun t =>
    t.updMask == 0x8 && t.rt == Vector.replicate _ 0 && t.rtLength == 0 && t.validFields == 0x11 && t.rtAbFlag
      && t.newRt == Vector.replicate _ 0 && t.nextRtSegment == 0) = true := by decide

/-- V9, last sentence: a 0x0D in segment 15 ends the text at 63; and R151: the same segment over the text already public raises no bit. -/
theorem test_g2a_resent : holdsAfter (group 0x200F 0x4141 0x410D { locked with newRt := Vector.replicate _ 0x41, nextRtSegment := 15 })
    (fun t => t.updMask == 0x8 && t.rtLength == 63 && t.rt.toList.drop 60 == [0x41, 0x41, 0x41, 0] &&
      holdsAfter (group 0x200F 0x4141 0x410D { t with nextRtSegment := 15 }) (fun u =>
        u.updMask == 0 && u.rt == t.rt && u.rtLength == 63 && u.isValid .rt)) = true := by decide

/-- V19: segment 15 of a 2B text publishes 32 characters. -/
theorem test_g2b : holdsAfter (group 0x280F 0x1234 0x2121 { locked with newRt := Vector.replicate _ 0x54, nextRtSegment := 15 }) (fun t =>
    t.updMask == 0x8 && t.rtLength == 32 && t.rt.toList.drop 29 == [0x54, 0x21, 0x21] ++ List.replicate 32 0 && t.nextRtSegment == 0)
    = true := by decide

/-- V10, third row: the second reception decodes variant 0. -/
theorem test_g3aTmcSys0 : holdsAfter (group 0x3010 0x0065 0xCD46 { locked with
      prevTmcSysGroup := ⟨0x1234, 3, .a, 0x10, 0x00, 0x65, 0xCD, 0x46⟩
      rdsOda := { State.reset.rdsOda with size := 1, oda := State.reset.rdsOda.oda.set 0 ⟨8, .a, 0xCD46⟩ } }) (fun t =>
    t.updMask == 0x4000 && t.tmcSys == ⟨1, true, false, 5, 0, 0, 0, 0, 0⟩ && t.isValid .tmcSys) = true := by decide

/-- V10: variant 1 without and with the enhanced mode. -/
theorem test_g3aTmcSys1 : ([(false, TmcSys.mk 1 true false 5 1 0x2A 0 0 0), (true, TmcSys.mk 1 true true 5 1 0x2A 1 2 3)].all fun x =>
    holdsAfter (group 0x3010 0x5A9B 0xCD46 { locked with
      prevTmcSysGroup := ⟨0x1234, 3, .a, 0x10, 0x5A, 0x9B, 0xCD, 0x46⟩
      tmcSys := ⟨1, true, x.1, 5, 0, 0, 0, 0, 0⟩ }) (fun t => t.tmcSys == x.2 && t.raised .tmcSys)) = true := by decide

/-- V10: variant 2 is staged and not decoded, also at its second reception. -/
theorem test_g3aTmcSysX : holdsAfter (group 0x3010 0x8FFF 0xCD46 locked) (fun t =>
    t.prevTmcSysGroup == ⟨0x1234, 3, .a, 0x10, 0x8F, 0xFF, 0xCD, 0x46⟩ &&
      holdsAfter (group 0x3010 0x8FFF 0xCD46 t) (fun u => u.tmcSys == TmcSys.zero && u.updMask == 0)) = true := by decide

/-- V10, further rows: a row is appended, then its AID is replaced. -/
theorem test_g3a : holdsAfter (group 0x3016 0 0x4BD7 locked) (fun t =>
    t.updMask == 0x10000 && t.rdsOda.rows == [⟨11, .a, 0x4BD7⟩] && t.decodeInformation == 1 && t.prevTmcSysGroup == Group.zero &&
      holdsAfter (group 0x3016 0 0x4BD8 t) (fun u => u.updMask == 0x10000 && u.rdsOda.rows == [⟨11, .a, 0x4BD8⟩])) = true := by decide

/-- V25: a 3B group leaves the table empty. -/
theorem test_g3b : holdsAfter (group 0x3810 0 0xCD46 locked) (fun t => t.rdsOda.size == 0 && t.updMask == 0) = true := by decide

/-- V12: 6 September 1982, 11:30, one hour east; and the first reception, which stages only. -/
theorem test_g4a : holdsAfter (group 0x4001 0x6144 0xA782 { locked with newMjd := 45218 }) (fun t =>
    t.updMask == 0x800 && t.time == ⟨82, 9, 6, 11, 30, 0, 3600⟩) = true
    ∧ holdsAfter (group 0x4001 0x6144 0xA782 locked) (fun t => t.updMask == 0 && t.time == CivilTime.zero && t.newMjd == 45218) = true := by
  decide

/-- V13, second and tenth row: the day carry in both directions. -/
theorem test_g4a_carry : holdsAfter (group 0x4001 0xCBC2 0x03E3 { locked with newMjd := 58849 }) (fun t =>
      t.time == ⟨119, 12, 31, 22, 45, 0, -5400⟩) = true
    ∧ holdsAfter (group 0x4003 0xFFFF 0xFFDF { locked with newMjd := 131071 }) (fun t =>
      t.time == ⟨317, 9, 26, 23, 33, 0, 55800⟩) = true := by decide

/-- V25: a 4B group leaves the MJD buffer alone. -/
theorem test_g4b : holdsAfter (group 0x4801 0x6144 0xA782 locked) (fun t => t.newMjd == 0 && t.time == CivilTime.zero) = true := by decide

/-- V25: the ids without a decoder count their group and change nothing else. -/
theorem test_ignored : ([0x5000, 0x6800, 0x7000, 0x9000, 0xB000, 0xC000, 0xD000, 0xE000, 0xF800].all fun b =>
    holdsAfter (group b 0xFFFF 0xFFFF locked) (fun t => decide (t = { locked with
      rdsGroup := Group.ofBlocks ⟨0x1234, b, 0xFFFF, 0xFFFF⟩
      newPi := 0x1234
      stats := { locked.stats with groupTypeCnt := locked.stats.groupTypeCnt.set (b.toNat / 4096 % 16) 1 (Nat.mod_lt _ (by decide)) } })))
    = true := by decide

/-- V28: a tuning-information group with SG set hits and disarms. -/
theorem test_g8aTi : holdsAfter (group 0x801B 0x1120 0xABCD { locked with
      prevTmcArmed := true, prevTmcGroup := ⟨0x1234, 8, .a, 0x1B, 0x11, 0x20, 0xAB, 0xCD⟩ }) (fun t =>
    !t.prevTmcArmed && t.tmcMsg == TmcMsg.zero && t.updMask == 0) = true := by decide

/-- V20: the first reception is staged, the second publishes, the third is staged again. -/
theorem test_g8aSg : holdsAfter (group 0x8013 0x1120 0xABCD { locked with validFields := 0x2011 }) (fun t =>
    t.prevTmcArmed && t.updMask == 0 && holdsAfter (group 0x8013 0x1120 0xABCD t) (fun u =>
      u.updMask == 0x1000 && u.tmcMsg == ⟨⟨3, false, false, 2, 0x120, 0xABCD, 0⟩, Additional.zero⟩ && !u.prevTmcArmed
        && u.validFields == 0x1011)) = true := by decide

/-- V21, first group: the pending record, and `follow_diversion` 1 because C[15] is FGI (C4). -/
theorem test_g8aMg1 : holdsAfter (group 0x8005 0x88A1 0x1234 { locked with
      grpSeqId := 2, prevTmcArmed := true, prevTmcGroup := ⟨0x1234, 8, .a, 5, 0x88, 0xA1, 0x12, 0x34⟩ }) (fun t =>
    t.continuityId == 5 && t.grpSeqId == 0 && t.newTmcMsg == ⟨0, true, false, 1, 0x0A1, 0x1234, 0⟩ && t.updMask == 0) = true := by decide

/-- V21, second group: window 0 and the sequence value. -/
theorem test_g8aMg2 : holdsAfter (group 0x8005 0x50A5 0x197F { locked with
      continuityId := 5, prevTmcArmed := true, prevTmcGroup := ⟨0x1234, 8, .a, 5, 0x50, 0xA5, 0x19, 0x7F⟩ }) (fun t =>
    t.grpSeqId == 1 && t.optionalTmc[0] == 0x0A5197F0 && t.newTmcMsg.length == 1 && t.updMask == 0) = true := by decide

/-- V21, subsequent group: window 1, completion, and the five records, one across the two windows. -/
theorem test_g8aMgn : holdsAfter (group 0x8005 0x0F57 0xDDFC { locked with
      continuityId := 5
      grpSeqId := 1
      optionalTmc := State.reset.optionalTmc.set 0 0x0A5197F0
      newTmcMsg := ⟨0, true, false, 1, 0x0A1, 0x1234, 1⟩
      prevTmcArmed := true
      prevTmcGroup := ⟨0x1234, 8, .a, 5, 0x0F, 0x57, 0xDD, 0xFC⟩ }) (fun t =>
    t.updMask == 0x2000 && t.grpSeqId == 0 && t.optionalTmc[1] == 0xF57DDFC0#32
      && t.tmcMsg.toTmcPending == ⟨0, true, false, 1, 0x0A1, 0x1234, 2⟩ && t.tmcMsg.additional.size == 5
      && t.tmcMsg.additional.fields.toList.take 6 == [⟨0, 5⟩, ⟨2, 0x11⟩, ⟨9, 0x3FF⟩, ⟨10, 0xBEEF⟩, ⟨14, 0⟩, ⟨0, 0⟩]) = true := by decide

/-- V29 (a): 28 zero bits are four records of label 0; and a wrong continuity index (b) is rejected. -/
theorem test_g8aMg2_corners : holdsAfter (group 0x8000 0x4000 0 { locked with
      prevTmcArmed := true, prevTmcGroup := ⟨0x1234, 8, .a, 0, 0x40, 0, 0, 0⟩ }) (fun t =>
      t.updMask == 0x2000 && t.tmcMsg.length == 1 && t.tmcMsg.additional.size == 4) = true
    ∧ holdsAfter (group 0x8003 0x4000 0 { locked with
      prevTmcArmed := true, prevTmcGroup := ⟨0x1234, 8, .a, 3, 0x40, 0, 0, 0⟩ }) (fun t =>
      t.updMask == 0 && t.newTmcMsg.length == 0 && !t.prevTmcArmed) = true := by decide

/-- V25: an 8B group does not arm the gate. -/
theorem test_g8b : holdsAfter (group 0x8813 0x1120 0xABCD locked) (fun t => !t.prevTmcArmed && t.tmcMsg == TmcMsg.zero) = true := by decide

/-- R301 to R303, the example of R303: the fourth group publishes "JAZZ FM!". -/
theorem test_g10a_publish : holdsAfter (group 0xA001 0x2046 0x4D21 { locked with
      newPtyn := #v[#v[0x4A, 0x41, 0x5A, 0x5A], #v[0x20, 0x46, 0x4D, 0x21]], newPtynValid := #v[true, false] }) (fun t =>
    t.updMask == 0x8000 && t.ptyn.toList == [0x4A, 0x41, 0x5A, 0x5A, 0x20, 0x46, 0x4D, 0x21] && t.isValid .ptyn) = true := by decide

/-- The example of R303: the other flag clears the name and stages the group's own half. -/
theorem test_g10a_toggle : holdsAfter (group 0xA010 0x4E45 0x5753 { locked with
      ptyn := Vector.replicate _ 0x41, newPtynValid := #v[true, true], validFields := 0x8011 }) (fun t =>
    t.updMask == 0x8000 && t.ptyn == Vector.replicate _ 0 && t.validFields == 0x11 && t.ptynAbFlag
      && t.newPtyn == #v[#v[0x4E, 0x45, 0x57, 0x53], #v[0, 0, 0, 0]] && t.newPtynValid == #v[false, false]) = true := by decide

/-- V25: a 10B group leaves the flag alone. -/
theorem test_g10b : holdsAfter (group 0xA810 0x4E45 0x5753 locked) (fun t => !t.ptynAbFlag && t.updMask == 0) = true := by decide

/-- V11, rows 1 and 2: A is stored, then an uncorrectable B counts twice and empties the assembler. -/
theorem test_blkErr : holdsAfter (exec (.blkA false 0 0x1234) State.reset) (fun t =>
    t.decodeState == .aReceived && t.rdsDataRaw[0] == ⟨0x1234, 0⟩ && holdsAfter (exec (.blkErr false 0 1 0) t) (fun u =>
      u.decodeState == .empty && u.stats.blockCnt == 2 && u.stats.blockErrorCnt == 1 && u.stats.groupErrorCnt == 1
        && u.stats.blockCorrectedCnt == 0)) = true := by decide

/-- V15, row 5: an A in AReceived is a group error and is dropped. -/
theorem test_blkA : holdsAfter (exec (.blkA false 0 0x1234) { State.reset with decodeState := .aReceived }) (fun t =>
    t.decodeState == .empty && t.stats.groupErrorCnt == 1 && t.stats.blockErrorCnt == 0) = true := by decide

/-- V11, row 6: a corrected B is counted and stored. -/
theorem test_blkB : holdsAfter (exec (.blkB true 0 7) { State.reset with decodeState := .aReceived }) (fun t =>
    t.decodeState == .bReceived && t.stats.blockCorrectedCnt == 1 && t.rdsDataRaw[1] == ⟨7, 0x41⟩) = true := by decide

/-- V11, row 7, and V16: C in BReceived and in Empty. -/
theorem test_blkC : holdsAfter (exec (.blkC false 0 7) { State.reset with decodeState := .bReceived }) (fun t =>
      t.decodeState == .cReceived && t.rdsDataRaw[2] == ⟨7, 2⟩) = true
    ∧ holdsAfter (exec (.blkC false 0 7) State.reset) (fun t => t.decodeState == .empty && t.stats.groupErrorCnt == 1) = true := by decide

/-- V11, row 8, and V15, row 8: D in CReceived completes the group, D in BReceived is a group error. -/
theorem test_blkD : holdsAfter (exec (.blkD false 0 0) { State.reset with
      decodeState := .cReceived, rdsDataRaw := #v[⟨0x1234, 0⟩, ⟨0, 0x41⟩, ⟨0, 2⟩, ⟨0, 0⟩] }) (fun t =>
      t.decodeState == .empty && t.stats.groupCnt == 1 && t.stats.groupTypeCnt[0] == 1 && t.newPi == 0x1234 && t.updMask == 0) = true
    ∧ holdsAfter (exec (.blkD false 0 0) { State.reset with decodeState := .bReceived }) (fun t =>
      t.decodeState == .empty && t.stats.groupErrorCnt == 1 && t.stats.groupCnt == 0) = true := by decide

/-- V14, rows 3 and 6: C' in AReceived is a group error (C2), in BReceived it is taken. -/
theorem test_blkCp : holdsAfter (exec (.blkCp false 0 7) { State.reset with decodeState := .aReceived }) (fun t =>
      t.decodeState == .empty && t.stats.groupErrorCnt == 1) = true
    ∧ holdsAfter (exec (.blkCp false 0 7) { State.reset with decodeState := .bReceived }) (fun t => t.decodeState == .cReceived) = true := by
  decide

/-- V15, row 1: codes that name no label are group errors and no block errors. -/
theorem test_blkX : ([Instr.blkX5 false 0 7, .blkX6 false 0 7, .blkX7 false 0 7].all fun i =>
    holdsAfter (exec i { State.reset with decodeState := .bReceived }) (fun t =>
      t.decodeState == .empty && t.stats.groupErrorCnt == 1 && t.stats.blockErrorCnt == 0 && t.stats.blockCnt == 1)) = true := by decide

/-- R314: an `add` of a B with the CORRECTED flag. -/
theorem test_add : holdsAfter (exec (.add 7 0x41) { State.reset with decodeState := .aReceived }) (fun t =>
    t.decodeState == .bReceived && t.stats.blockCorrectedCnt == 1) = true := by decide

/-- R311: `create(1)` from any state is the power-on state with the bit set. -/
theorem test_create : holdsAfter (exec (.create true) { locked with di := 5 }) (fun t =>
    t.isRbds && t.pi == 0 && t.di == 0 && t.validFields == 0) = true := by decide

/-- R313: `reset(1)` keeps the statistics and the bit, `reset(0)` only the bit. -/
theorem test_reset :
    holdsAfter (exec (.reset true) { locked with isRbds := true, stats := { locked.stats with blockCnt := 9 } }) (fun t =>
      t.isRbds && t.pi == 0 && t.validFields == 0 && t.stats.blockCnt == 9) = true
    ∧ holdsAfter (exec (.reset false) { locked with isRbds := true, stats := { locked.stats with blockCnt := 9 } }) (fun t =>
      t.isRbds && t.pi == 0 && t.stats.blockCnt == 0) = true := by decide

/-- R312, R364 (log 5): nothing but `create` follows `destroy`. -/
theorem test_destroy : holdsAfter (exec .destroy locked) (fun t => !t.created && t.pi == 0x1234 &&
    decide ((match exec .getGroup t with | .refused .destroyed => true | _ => false) = true)) = true := by decide

/-- R316: before the first completed group the record is all zero. -/
theorem test_getGroup : holdsAfter (exec .getGroup State.reset) (fun t => t.readOut == some (.group ⟨0, 0, .a, 0, 0, 0, 0, 0⟩)) = true := by
  decide

/-- R315: reads of a scalar and of the AF set, of which the meaningful entries are shown (R25). -/
theorem test_read : holdsAfter (exec (.read .pi) locked) (fun t => t.readOut == some (.bits 16 0x1234)) = true
    ∧ holdsAfter (exec (.read .rdsAf) { locked with rdsAf := { locked.rdsAf with announcedAf := 2, size := 1 } }) (fun t =>
      t.readOut == some (.afSet 2 [0])) = true := by decide

/-- V6, the lookup indices after row 8. -/
theorem test_lookupIndex : holdsAfter (exec .lookupIndex { locked with ecc := 0xE1, lc := 9 }) (fun t => match t.readOut with
    | some (.indices x) => x.countryEcc == 0xE1 && x.countryPi == 1 && x.countryInRange && x.language == 9 && x.langInRange
        && x.coverage == 2 && !x.ptyIsRbds && x.pty == 0
    | _ => false) = true := by decide

/-- R344 (log 4): a step without an operation holds the registers. -/
theorem test_idle : holdsAfter (step { locked with updMask := 1 }) (fun t => decide (t = locked)) = true := by decide

/-! ### Witnesses: for every statement with premises, a concrete state and operands that meet them together, clause by clause -/

/-- The premises every statement about a group has: the four payloads are those of a well-formed instruction, and there is an instance. -/
abbrev Meets (p : GroupBlocks) (s : State) : Prop :=
  (decodeGroup p).wellFormed = true ∧ encodeGroup (decodeGroup p) = some p ∧ s.created = true

/-- A group with the PI of the vectors. -/
abbrev blocks (b c d : Word) : GroupBlocks := ⟨0x1234, b, c, d⟩

/-- A state with something in every table, a group's last block in the input, and the mask of the step before on the port. -/
def rich : State := { State.reset with
  rdsAf := { State.reset.rdsAf with announcedAf := 2, size := 1, af := State.reset.rdsAf.af.set 0 87900000 }
  rdsOda := { State.reset.rdsOda with size := 1, oda := State.reset.rdsOda.oda.set 0 ⟨8, .a, 0xCD46⟩ }
  rt := (State.reset.rt.set 0 0x41).set 1 0x42
  rtLength := 2
  nextRtSegment := 15
  tmcMsg := ⟨⟨0, true, false, 1, 0x0A1, 0x1234, 1⟩, ⟨1, Additional.zero.fields.set 0 ⟨1, 2⟩⟩⟩
  newTmcMsg := ⟨0, true, false, 1, 0x0A1, 0x1234, 1⟩
  grpSeqId := 3
  optionalTmc := State.reset.optionalTmc.set 0 0x0A5197F0
  stats := { Statistics.zero with groupCnt := 1, groupTypeCnt := Statistics.zero.groupTypeCnt.set 3 1 }
  decodeInformation := 1
  validFields := 0x2031
  updMask := 0x10000
  decodeState := .cReceived
  rdsDataRaw := #v[⟨0x1234, 0⟩, ⟨0x0010, 1⟩, ⟨0xE304, 2⟩, ⟨0, 0⟩]
  pending := [.blkStb 0x5354 3] }

theorem rich_inv : rich.Inv where
  afBound := by decide
  afNodup := by decide
  odaBound := by decide
  odaUnique := by decide
  odaInfo := by decide
  rtPadded := by decide
  rtExpected := by decide
  tmcWindowCount := by decide
  tmcWindowLow := by decide
  tmcFields := by decide
  validWidth := fun _ hk => Nat.testBit_lt_two_pow (Nat.lt_of_lt_of_le (by decide : 0x2031 < 2 ^ 16) (Nat.pow_le_pow_right (by decide) hk))
  maskWidth := fun _ hk => Nat.testBit_lt_two_pow (Nat.lt_of_lt_of_le (by decide : 0x10000 < 2 ^ 17) (Nat.pow_le_pow_right (by decide) hk))
  tmcOneKind := by decide
  groupSum := by decide

/-- `RESET` with an instance, and an operation that is not `CREATE`. -/
theorem witness_CreateAndResetClearTheState : { locked with isRbds := true }.created = true
    ∧ holdsAfter (exec .getGroup { locked with isRbds := true }) (·.isRbds) = true ∧ ∀ b, Instr.getGroup ≠ .create b := by decide

theorem witness_ResetStateIsCreateOfRds : locked.pending = [] ∧ locked ≠ State.reset := by decide

theorem witness_ReadsHaveNoSideEffect : rich.created = true ∧ rich.updMask ≠ 0 := by decide

theorem witness_ReadsReturnTheRegister : rich.created = true ∧ rich.rdsAf.entries ≠ [] := by decide

/-- An instance with an operation in the input, and one without. -/
theorem witness_EveryInstructionCompletes : rich.created = true ∧ rich.pending ≠ [] ∧ locked.created = true ∧ locked.pending = [] := by
  decide

/-- The country clause of the lookup at both ends of its range. -/
theorem witness_LookupIndicesFromPublicRegisters : [0xE0#8, 0xE4#8].all (fun e =>
    decide ({ locked with ecc := e }.created = true ∧ 0xE0 ≤ e.toNat ∧ e.toNat ≤ 0xE4)) = true := by decide

/-- A destroyed instance, and operations of the three levels that are not `create`. -/
theorem witness_DestroyEndsTheInstance : locked.created = true ∧ { locked with created := false }.created = false
    ∧ (∀ b, Instr.getGroup ≠ .create b) ∧ (∀ b, Instr.blkD false 0 7 ≠ .create b) ∧ ∀ b, Instr.g2b 1 false 0 false 15 0 0 0 ≠ .create b := by
  decide

/-- An operation in the input, and none. -/
theorem witness_StepRunsTheNextOperation : rich.pending = .blkStb 0x5354 3 :: [] ∧ locked.pending = [] := by decide

/-- A well-formed instruction of each level, with its encoding. -/
theorem witness_DecodeOfEncodeIsTheInstruction :
    ((Instr.g1aV4_7 1 true 31 0x1F true 7 0xFFF 0xFFFF).wellFormed = true
      ∧ encodeGroup (.g1aV4_7 1 true 31 0x1F true 7 0xFFF 0xFFFF) = some ⟨1, 0x17FF, 0xFFFF, 0xFFFF⟩)
    ∧ ((Instr.blkErr true 7 5 9).wellFormed = true ∧ encodeBlock (.blkErr true 7 5 9) = some ⟨9, 0xFD⟩)
    ∧ (Instr.reset true).wellFormed = true ∧ encodeOp (.reset true) = some (.resetStb true) := by decide

/-- The three cases of the two flags, in a RAWBLOCK row and in `ADD`. -/
theorem witness_CountersAtEntryOfABlock :
    encodeBlock (.blkErr true 0 1 7) = some ⟨7, 0xC1⟩ ∧ encodeBlock (.blkB true 0 7) = some ⟨7, 0x41⟩
    ∧ encodeBlock (.blkX7 false 7 7) = some ⟨7, 0x3F⟩ ∧ Instr.add 7 0xC1 = .add (RawBlock.mk 7 0xC1).data (RawBlock.mk 7 0xC1).block
    ∧ locked.created = true := by decide

/-- The expected block of the three states, with both labels of the third block. -/
theorem witness_ExpectedBlockIsStored :
    [(DecodeState.empty, Instr.blkA false 7 9, 0x38#8), (.aReceived, .blkB true 0 9, 0x41), (.bReceived, .blkC false 0 9, 2),
      (.bReceived, .blkCp true 0 9, 0x44)].all (fun x => decide (encodeBlock x.2.1 = some ⟨9, x.2.2⟩
        ∧ { locked with decodeState := x.1 }.created = true ∧ x.1.accepts x.2.2 = true ∧ x.1 ≠ .cReceived)) = true := by decide

/-- An error block, a code without a label, and a label out of turn. -/
theorem witness_UnexpectedBlockIsAGroupError :
    [(DecodeState.aReceived, Instr.blkErr false 0 1 9, 0x81#8), (.bReceived, .blkX5 false 0 9, 5), (.aReceived, .blkCp false 0 9, 4),
      (.empty, .blkD false 0 9, 3), (.cReceived, .blkA false 0 9, 0)].all (fun x => decide (encodeBlock x.2.1 = some ⟨9, x.2.2⟩
        ∧ { locked with decodeState := x.1 }.created = true ∧ x.1.accepts x.2.2 = false)) = true := by decide

theorem witness_BlockDRunsTheGroupRow : rich.created = true ∧ rich.decodeState = .cReceived := by decide

/-- Both sides of the accounting: a stored block, and one that throws three blocks away. -/
theorem witness_BlocksAreAccountedFor : locked.created = true ∧ rich.created = true ∧ rich.decodeState.accepts 0x80 = false := by decide

/-- Not the state, and not the label, that complete a group. -/
theorem witness_MaskIsZeroUnlessAGroupCompletes :
    (holdsAfter (exec (.add 7 3) locked) (fun _ => true) = true ∧ locked.decodeState ≠ .cReceived)
    ∧ holdsAfter (exec (.add 7 0x83) rich) (fun _ => true) = true ∧ effectiveLabel 0x83 ≠ some .d := by decide

/-- Both labels of the third block. -/
theorem witness_FourBlocksExecuteTheGroup : [2#8, 4].all (fun third =>
    let s := { locked with pending := [.blkStb 0x1234 0, .blkStb 0x8013 1, .blkStb 0x1120 third, .blkStb 0xABCD 3, .getGroup] }
    decide (Meets (blocks 0x8013 0x1120 0xABCD) s ∧ s.decodeState = .empty ∧ (third = 2 ∨ third = 4)
      ∧ s.pending = .blkStb (blocks 0x8013 0x1120 0xABCD).a 0 :: .blkStb 0x8013 1 :: .blkStb 0x1120 third :: .blkStb 0xABCD 3 :: [.getGroup]))
    = true := by decide

/-- The three cases of the validation buffer: accepted, staged only, and equal to the public value. -/
theorem witness_PiAndPtyAreAcceptedTwice :
    (Meets (blocks 0x03E0 0 0) { locked with pi := 0, newPty := 31 } ∧ (0x1234 = locked.newPi ∧ 0x1234 ≠ (0 : Word)))
    ∧ (Meets (blocks 0x03E0 0 0) State.reset ∧ 0x1234 ≠ State.reset.newPi)
    ∧ Meets (blocks 0x03E0 0 0) locked ∧ 0x1234 = locked.newPi ∧ ¬(0x1234 ≠ locked.pi) := by decide

theorem witness_TpRecordAndCounterOfEveryGroup : Meets (blocks 0x0400 0 0) locked ∧ Meets (blocks 0xFFFF 0xFFFF 0xFFFF) rich := by decide

/-- Without a decoder, of version B, and variants of 1A. -/
theorem witness_IgnoredGroupsTouchNothingElse : [blocks 0x5000 0 0, blocks 0xF800 0 0, blocks 0x1800 0x00E3 0, blocks 0x1000 0x1055 0,
    blocks 0x1000 0x2055 0, blocks 0x1000 0xF055 0].all (fun p => decide (Meets p rich ∧ isIgnoredGroup p = true)) = true := by decide

theorem witness_TaAndMsAreAcceptedAtOnce : [blocks 0x0018 0xE304 0, blocks 0x0800 0 0].all (fun p =>
    decide (Meets p rich ∧ gidOf p = 0)) = true := by decide

/-- The last segment both with all characters valid and with none. -/
theorem witness_PsCharactersAreStagedAndPublished :
    [Vector.replicate 8 true, Vector.replicate 8 false].all (fun v => decide (Meets (blocks 0x0003 0 0x4E21) { locked with newPsValid := v }
      ∧ gidOf (blocks 0x0003 0 0x4E21) = 0)) = true := by decide

/-- Segment 0, the expected segments 1 and 3, and a segment out of order. -/
theorem witness_DiSegmentsInOrder : [(0x0004#16, 2#2), (0x0005, 1), (0x0007, 3), (0x0006, 3)].all (fun x =>
    decide (Meets (blocks x.1 0 0) { locked with nextDiSegment := x.2 } ∧ gidOf (blocks x.1 0 0) = 0)) = true := by decide

/-- Codes at the ends of their ranges: 0, 1, 204, 205, 223, 224, 249, 250 with 0, 1, 15, 16 and 255, and 251. -/
theorem witness_AfPairUpdatesTheSet : [0x0001#16, 0xCCCD, 0xDFE0, 0xF9FB, 0xFA00, 0xFA01, 0xFA0F, 0xFA10, 0xFAFF, 0xE0FA].all (fun c =>
    decide (Meets (blocks 0x0000 c 0) rich ∧ gidOf (blocks 0x0000 c 0) = 0 ∧ verBOf (blocks 0x0000 c 0) = false
      ∧ rich.rdsAf.size.toNat ≤ 25)) = true := by decide

theorem witness_G0BReadsNoBlockC : rich.created = true := by decide

/-- A code received again, and a new one. -/
theorem witness_EccIsAcceptedTwice : [0xE0#8, 0xE1].all (fun staged => decide (Meets (blocks 0x1000 0x00E0 0) { locked with newEcc := staged }
    ∧ gidOf (blocks 0x1000 0x00E0 0) = 1 ∧ verBOf (blocks 0x1000 0x00E0 0) = false
    ∧ (blocks 0x1000 0x00E0 0).c.extractLsb' 12 3 = 0)) = true := by decide

/-- A code received again, and a new one; with the bit above the variant set. -/
theorem witness_LcIsAcceptedTwice : [0x09#8, 0x0A].all (fun staged => decide (Meets (blocks 0x1000 0xB009 0) { locked with newLc := staged }
    ∧ gidOf (blocks 0x1000 0xB009 0) = 1 ∧ verBOf (blocks 0x1000 0xB009 0) = false
    ∧ (blocks 0x1000 0xB009 0).c.extractLsb' 12 3 = 3)) = true := by decide

/-- The premises about the staged text that no 0x0D is in it, over segments that do not complete it: an expected one of each version,
one out of turn, and one that toggles the flag. -/
theorem witness_RadioTextSegmentIsStaged : [blocks 0x2001 0x4142 0x4344, blocks 0x280E 0x0D0D 0x4344, blocks 0x2005 0x0D42 0x4344,
    blocks 0x201F 0x4142 0x4344].all (fun p =>
      let s := { locked with nextRtSegment := if verBOf p then 14 else 1 }
      decide (Meets p s ∧ gidOf p = 2 ∧ (∀ k, rtStagedAt p s k ≠ 0x0D) ∧ ¬(rtTakes p s = true ∧ rtSegmentOf p = 15))) = true := by decide

/-- Segment 15 of both versions. -/
theorem witness_RadioTextIsPublishedBySegment15 : [blocks 0x200F 0x4142 0x4344, blocks 0x280F 0x0D0D 0x4344].all (fun p =>
    decide (Meets p rich ∧ gidOf p = 2 ∧ (∀ k, rtStagedAt p rich k ≠ 0x0D) ∧ rtTakes p rich = true ∧ rtSegmentOf p = 15)) = true := by
  decide

/-- A 0x0D in segment 0 and in the last position, one that a toggle brings, and one that stands before a segment out of turn. -/
theorem witness_RadioTextEndsAtTheTerminator :
    let ended := { rich with newRt := rich.newRt.set 2 0x0D }
    [(blocks 0x2000 0x0D42 0x4344, rich, (0 : Fin 64)), (blocks 0x200F 0x4142 0x430D, rich, 63), (blocks 0x2010 0x410D 0x4344, rich, 1),
      (blocks 0x2005 0x4142 0x4344, ended, 2), (blocks 0x280F 0x4142 0x410D, rich, 31)].all (fun x =>
        decide (Meets x.1 x.2.1 ∧ gidOf x.1 = 2 ∧ rtStagedAt x.1 x.2.1 x.2.2 = 0x0D
          ∧ ∀ k : Fin 64, k < x.2.2 → rtStagedAt x.1 x.2.1 k ≠ 0x0D)) = true := by decide

/-- A full table. -/
def fullTable : OdaTable := ⟨18, Vector.ofFn fun k => ⟨BitVec.ofNat 4 k.val, if k.val < 16 then .a else .b, 7⟩⟩

/-- The row is known, is new, and finds the table full. -/
theorem witness_OdaRowIsAddedOrReplaced :
    [(blocks 0x3010 0 0x4BD7, rich, true), (blocks 0x3011 0 0x4BD7, rich, false), (blocks 0x3015 0 0x4BD7, { rich with rdsOda := fullTable }, false)].all
      (fun x => decide (Meets x.1 x.2.1 ∧ gidOf x.1 = 3 ∧ verBOf x.1 = false ∧ x.2.1.rdsOda.size ≤ 18
        ∧ (x.2.1.rdsOda.rows.map fun r => (r.groupId, r.version)).Nodup
        ∧ decide (∃ r ∈ x.2.1.rdsOda.rows, r.groupId = x.1.b.extractLsb' 1 4 ∧ r.version = if x.1.b.getLsbD 0 then .b else .a) = x.2.2)) = true
    ∧ rich.rdsOda.rows.length < 18 ∧ fullTable.rows.length = 18 := by decide

/-- A hit of variant 0, of variant 1 with and without the enhanced mode, of variant 3, and a miss. -/
theorem witness_TmcSystemGroupIsDecodedTwice :
    [(blocks 0x3010 0x0065 0xCD46, true), (blocks 0x3010 0x5A9B 0xCD47, true), (blocks 0x3010 0xC000 0xCD46, true),
      (blocks 0x3010 0x0065 0xCD46, false)].all (fun x => [true, false].all fun enhanced =>
        let s := { locked with tmcSys := { locked.tmcSys with enhancedMode := enhanced }
                               prevTmcSysGroup := if x.2 then Group.ofBlocks x.1 else Group.zero }
        decide (Meets x.1 s ∧ gidOf x.1 = 3 ∧ verBOf x.1 = false ∧ (x.1.d = 0xCD46 ∨ x.1.d = 0xCD47)
          ∧ (decide (s.prevTmcSysGroup = Group.ofBlocks x.1) = x.2))) = true := by decide

/-- The AIDs beside the two of TMC. -/
theorem witness_OtherOdaTouchesTheTableOnly : [0xCD45#16, 0xCD48].all (fun d => decide (Meets (blocks 0x3016 0 d) rich
    ∧ gidOf (blocks 0x3016 0 d) = 3 ∧ verBOf (blocks 0x3016 0 d) = false ∧ d ≠ 0xCD46 ∧ d ≠ 0xCD47)) = true := by decide

/-- The MJD staged before, and another. -/
theorem witness_ClockTimeNeedsTheSameMjdTwice : [45218#17, 45219].all (fun m => decide (Meets (blocks 0x4001 0x6144 0xA782) { locked with newMjd := m }
    ∧ gidOf (blocks 0x4001 0x6144 0xA782) = 4 ∧ verBOf (blocks 0x4001 0x6144 0xA782) = false)) = true := by decide

/-- A hit in the middle of the range, at its lower and at its upper end. -/
theorem witness_ClockTimeIsLocalTimeAndDate : [blocks 0x4001 0x6144 0xA782, blocks 0x4000 0x0000 0x003F, blocks 0x4003 0xFFFF 0xFFDF].all (fun p =>
    let s := { locked with newMjd := p.b.extractLsb' 0 2 ++ p.c.extractLsb' 1 15 }
    decide (Meets p s ∧ gidOf p = 4 ∧ verBOf p = false ∧ s.newMjd = p.b.extractLsb' 0 2 ++ p.c.extractLsb' 1 15)) = true := by decide

/-- The premises are those of the statement before. -/
theorem witness_ClockTimeStaysInRange :
    Meets (blocks 0x4003 0xFFFF 0xFFDF) { locked with newMjd := 131071 } ∧ gidOf (blocks 0x4003 0xFFFF 0xFFDF) = 4
    ∧ verBOf (blocks 0x4003 0xFFFF 0xFFDF) = false
    ∧ (131071 : BitVec 17) = (0x4003#16).extractLsb' 0 2 ++ (0xFFFF#16).extractLsb' 1 15 := by decide

/-- The gate is armed with the group, over any state. -/
def armed (p : GroupBlocks) (s : State) : State := { s with prevTmcArmed := true, prevTmcGroup := Group.ofBlocks p }

/-- What a statement about a group that the gate lets through assumes. -/
abbrev Hits (p : GroupBlocks) (s : State) : Prop :=
  Meets p s ∧ gidOf p = 8 ∧ verBOf p = false ∧ s.prevTmcArmed = true ∧ s.prevTmcGroup = Group.ofBlocks p

/-- The gate not armed, armed with another group, and armed with the group; for each of the five forms. -/
theorem witness_TmcGateStagesOrDisarms : [blocks 0x801B 0x1120 7, blocks 0x8013 0x9120 7, blocks 0x8005 0xC8A1 7, blocks 0x8005 0x50A5 7,
    blocks 0x8005 0x2F57 7].all (fun p =>
      ([{ locked with prevTmcGroup := Group.ofBlocks p }, { locked with prevTmcArmed := true }].all fun s =>
        decide (Meets p s ∧ gidOf p = 8 ∧ verBOf p = false ∧ ¬(s.prevTmcArmed = true ∧ s.prevTmcGroup = Group.ofBlocks p)))
      && decide (Hits p (armed p rich))) = true := by decide

theorem witness_TuningInformationOnlyDisarms : [blocks 0x801B 0x1120 7, blocks 0x8008 0 7].all (fun p =>
    decide (Hits p (armed p rich) ∧ p.b.getLsbD 3 = true)) = true := by decide

theorem witness_SingleGroupMessageIsPublished : [blocks 0x8013 0x1120 0xABCD, blocks 0x8017 0xFFFF 0xFFFF].all (fun p =>
    decide (Hits p (armed p rich) ∧ p.b.getLsbD 3 = false ∧ p.b.getLsbD 4 = true)) = true := by decide

theorem witness_FirstGroupBeginsAMessage : [blocks 0x8005 0x88A1 0x1234, blocks 0x8005 0xFFFF 0x1234].all (fun p =>
    decide (Hits p (armed p rich) ∧ p.b.getLsbD 3 = false ∧ p.b.getLsbD 4 = false ∧ p.c.getLsbD 15 = true)) = true := by decide

/-- The sequence values 0, 1 and 3 with the continuity index, and another index. -/
theorem witness_SecondGroupBringsWindowZero : [(blocks 0x8000 0x4000 7, true), (blocks 0x8000 0x5000 7, true), (blocks 0x8000 0x7000 7, true),
    (blocks 0x8003 0x4000 7, false)].all (fun x => decide (Hits x.1 (armed x.1 rich) ∧ x.1.b.getLsbD 3 = false ∧ x.1.b.getLsbD 4 = false
      ∧ x.1.c.getLsbD 15 = false ∧ x.1.c.getLsbD 14 = true ∧ decide (x.1.b.extractLsb' 0 3 = (armed x.1 rich).continuityId) = x.2)) = true := by
  decide

/-- A group that fits before and at the end of its message, and four that fail one condition each: the index, the value, a message
already complete, and the room (which only an unreachable state can lack, R269). -/
theorem witness_SubsequentGroupAppendsAWindow :
    [(blocks 0x8000 0x2000 7, 3#2, 1#3, true), (blocks 0x8000 0x0000 7, 1, 3, true), (blocks 0x8003 0x2000 7, 3, 1, false),
      (blocks 0x8000 0x3000 7, 3, 1, false), (blocks 0x8000 0x3000 7, 0, 1, false), (blocks 0x8000 0x2000 7, 3, 4, false)].all (fun x =>
      let p := x.1
      let s := { armed p rich with grpSeqId := x.2.1, newTmcMsg := { rich.newTmcMsg with length := x.2.2.1 } }
      decide (Hits p s ∧ p.b.getLsbD 3 = false ∧ p.b.getLsbD 4 = false ∧ p.c.getLsbD 15 = false ∧ p.c.getLsbD 14 = false
        ∧ decide (p.b.extractLsb' 0 3 = s.continuityId ∧ 1 ≤ s.grpSeqId.toNat ∧ (p.c.extractLsb' 12 2).toNat + 1 = s.grpSeqId.toNat
          ∧ s.newTmcMsg.length.toNat < 4) = x.2.2.2)) = true := by decide

theorem witness_OptionalFieldsAreTheRecordsOfTheStream : (1 ≤ 1 ∧ 1 ≤ 4) ∧ (1 ≤ 4 ∧ 4 ≤ 4) := by decide

/-- The half that completes the name, the half that does not, and a toggle. -/
theorem witness_PtynHalvesAreStagedAndPublished :
    [(blocks 0xA001 0x2046 0x4D21, #v[true, false]), (blocks 0xA001 0x2047 0x4D21, #v[true, true]), (blocks 0xA010 0x2046 0x4D21, #v[true, true])].all
      (fun x =>
        let s := { locked with newPtyn := #v[#v[0x4A, 0x41, 0x5A, 0x5A], #v[0x20, 0x46, 0x4D, 0x21]], newPtynValid := x.2 }
        decide (Meets x.1 s ∧ gidOf x.1 = 10 ∧ verBOf x.1 = false)) = true
    ∧ holdsAfter (group 0xA001 0x2046 0x4D21 { locked with
        newPtyn := #v[#v[0x4A, 0x41, 0x5A, 0x5A], #v[0x20, 0x46, 0x4D, 0x21]], newPtynValid := #v[true, false] })
        (fun t => t.newPtynValid[0] && t.newPtynValid[1]) = true
    ∧ holdsAfter (group 0xA001 0x2047 0x4D21 locked) (fun t => !t.newPtynValid[1]) = true := by decide

theorem witness_StepKeepsTheInvariant : rich.Inv ∧ holdsAfter (step rich) (fun t => t.stats.groupCnt == 2) = true :=
  ⟨rich_inv, by decide⟩

/-- A group with two changes, over a state that meets the invariant. -/
theorem witness_MaskReportsTheChanges : rich.Inv ∧ holdsAfter (exec (.add 0x5354 3) rich) (fun t => t.updMask == 0x120) = true :=
  ⟨rich_inv, by decide⟩

/-- The four ways a bit is cleared: RT, PTYN, and each kind of message by the other. -/
theorem witness_ValidBitsAreClearedOnlyByNamedEvents :
    [(blocks 0x2011 0 0, Field.rt), (blocks 0xA010 0 0, .ptyn), (blocks 0x8013 0x1120 7, .tmcMg), (blocks 0x8000 0x4000 7, .tmcSg)].all (fun x =>
      let s := { armed x.1 locked with validFields := 1 <<< x.2.pos }
      s.isValid x.2 && holdsAfter (exec (decodeGroup x.1) s) (fun t => !t.isValid x.2)) = true := by decide

theorem witness_ConfigurationBitHasNoEffect : (∀ c, Instr.getGroup ≠ .create c) ∧ (∀ c, Instr.add 7 3 ≠ .create c)
    ∧ holdsAfter (exec (.add 7 3) rich) (fun _ => true) = true ∧ Instr.add 7 3 ≠ .read .isRbds ∧ Instr.add 7 3 ≠ .lookupIndex := by decide

/-- Three receptions of a single-group message and of a clock-time group. -/
theorem witness_ThirdReceptionRaisesNothing : [blocks 0x8013 0x1120 0xABCD, blocks 0x4001 0x6144 0xA782].all (fun p =>
    let i := decodeGroup p
    encodeGroup i == some p && holdsAfter (exec i State.reset) (fun t => holdsAfter (exec i t) (fun u => u.updMask != 0 &&
      holdsAfter (exec i u) (fun _ => true)))) = true := by decide

end Sys2Proof.Tests
end

section
/-! The step in terms of the input still to come: what it fetches, and what it is with and without an operation. -/

namespace Sys2Proof.Machine

/-! ### The fetch -/

theorem fetchOp_of_pending_cons {op : HostOp} {rest : List HostOp} {s : State} (h : s.pending = op :: rest) :
    fetchOp s = some (op, { s with pending := rest }) := by
  rw [fetchOp, h]

theorem fetchOp_of_pending_nil {s : State} (h : s.pending = []) : fetchOp s = none := by
  rw [fetchOp, h]

/-! ### The step -/

theorem step_of_pending_cons {op : HostOp} {rest : List HostOp} {s : State} (h : s.pending = op :: rest) :
    step s = exec (decodeOp op) { s with pending := rest } := by
  rw [step, fetchOp_of_pending_cons h]

/-- Without an operation a step only clears the output ports (R344, log 4). -/
theorem step_of_pending_nil {s : State} (h : s.pending = []) : step s = .next s.clearOutputs := by
  rw [step, fetchOp_of_pending_nil h, idle]

/-- Settles O9: the two cases of the input; without an operation the frame is that of `clearOutputs`. -/
theorem stepRunsTheNextOperation : Obligations.StepRunsTheNextOperation := by
  unfold Obligations.StepRunsTheNextOperation
  constructor
  · intro op rest s h
    exact step_of_pending_cons h
  · intro s h
    exact ⟨s.clearOutputs, step_of_pending_nil h, clearOutputs_untouched s, rfl, rfl⟩

end Sys2Proof.Machine
end

section
/-! What an instruction can do where it answers a next state: one case per kind of effect, and the effects of the raw blocks. Every
statement about the whole machine is a case analysis over these. -/

namespace Sys2Proof.Machine

/-- A GROUP row has four payloads. -/
theorem encodeGroup_of_isGroup {i : Instr} (h : i.isGroup = true) : ∃ p, encodeGroup i = some p := by
  cases i <;> first | exact ⟨_, rfl⟩ | cases h

/-- What a RAWBLOCK row does where it answers (R121 to R127): a group error, a block stored, or a group completed and decoded. -/
inductive BlockEffect (s : State) : State → Prop
  | error (e c : Bool) : BlockEffect s (groupError (enterBlock e c s))
  | stored (c : Bool) (raw : Vector RawBlock 4) (d : DecodeState) :
      BlockEffect s { enterBlock false c s with rdsDataRaw := raw, decodeState := d }
  | completed (c : Bool) (r : RawBlock) (i : Instr) (p : GroupBlocks) (h : encodeGroup i = some p) :
      BlockEffect s (afterGroup i p (storeD r (enterBlock false c s)))

theorem takeA_effect (c : Bool) (r : RawBlock) (s : State) : BlockEffect s (takeA r (enterBlock false c s)) := by
  by_cases h : (enterBlock false c s).decodeState = .empty
  · rw [takeA_empty h]; exact .stored c _ _
  · rw [takeA_other h]; exact .error false c

theorem takeB_effect (c : Bool) (r : RawBlock) (s : State) : BlockEffect s (takeB r (enterBlock false c s)) := by
  by_cases h : (enterBlock false c s).decodeState = .aReceived
  · rw [takeB_aReceived h]; exact .stored c _ _
  · rw [takeB_other h]; exact .error false c

theorem takeC_effect (c : Bool) (r : RawBlock) (s : State) : BlockEffect s (takeC r (enterBlock false c s)) := by
  by_cases h : (enterBlock false c s).decodeState = .bReceived
  · rw [takeC_bReceived h]; exact .stored c _ _
  · rw [takeC_other h]; exact .error false c

theorem blkD_effect {c : Bool} {u : BitVec 3} {d : Word} {s t : State} (h : exec (.blkD c u d) s = .next t) : BlockEffect s t := by
  by_cases hd : s.decodeState = .cReceived
  · rw [exec_blkD_complete c u d hd] at h
    obtain ⟨p, hp⟩ := encodeGroup_of_isGroup (decodeGroup_isGroup (storeD ⟨d, ctrlByte false c u 3⟩ (enterBlock false c s)).rawGroup)
    rw [exec_group hp] at h
    obtain ⟨-, rfl⟩ := whenCreated_eq_next h
    exact .completed c _ _ p hp
  · rw [exec_blkD_early c u d hd] at h
    obtain ⟨-, rfl⟩ := whenCreated_eq_next h
    exact .error false c

/-- Everything a RAWBLOCK row can answer. -/
theorem exec_block_effect {i : Instr} (hi : i.isBlock = true) {s t : State} (h : exec i s = .next t) : BlockEffect s t := by
  cases i with
  | blkErr c => rw [exec_blkErr] at h; obtain ⟨-, rfl⟩ := whenCreated_eq_next h; exact .error true c
  | blkA c => rw [exec_blkA] at h; obtain ⟨-, rfl⟩ := whenCreated_eq_next h; exact takeA_effect c _ s
  | blkB c => rw [exec_blkB] at h; obtain ⟨-, rfl⟩ := whenCreated_eq_next h; exact takeB_effect c _ s
  | blkC c => rw [exec_blkC] at h; obtain ⟨-, rfl⟩ := whenCreated_eq_next h; exact takeC_effect c _ s
  | blkD => exact blkD_effect h
  | blkCp c => rw [exec_blkCp] at h; obtain ⟨-, rfl⟩ := whenCreated_eq_next h; exact takeC_effect c _ s
  | blkX5 c => rw [exec_blkX5] at h; obtain ⟨-, rfl⟩ := whenCreated_eq_next h; exact .error false c
  | blkX6 c => rw [exec_blkX6] at h; obtain ⟨-, rfl⟩ := whenCreated_eq_next h; exact .error false c
  | blkX7 c => rw [exec_blkX7] at h; obtain ⟨-, rfl⟩ := whenCreated_eq_next h; exact .error false c
  | _ => cases hi

/-- `ADD` is the RAWBLOCK row its argument decodes to (R314). -/
theorem exec_add (data : Word) (block : Byte) (s : State) : exec (.add data block) s = exec (decodeBlock ⟨data, block⟩) s :=
  runBlock_eq _ (decodeBlock_isBlock _) s

theorem exec_create (b : Bool) (s : State) : exec (.create b) s = .next (State.cleared b Statistics.zero s.pending) := rfl

/-- What an instruction does where it answers a next state. -/
inductive Effect (i : Instr) (s : State) : State → Prop
  | group (p : GroupBlocks) (h : encodeGroup i = some p) : Effect i s (afterGroup i p s)
  | block {t : State} (h : BlockEffect s t) : Effect i s t
  | answer (v : ReadValue) : Effect i s (s.answer v)
  | destroy : Effect i s { s.clearOutputs with created := false }
  | create (b : Bool) (h : i = .create b) : Effect i s (State.cleared b Statistics.zero s.pending)
  | reset (b : Bool) (h : i = .reset b) :
      Effect i s (State.cleared s.isRbds (if b then s.stats else Statistics.zero) s.pending)

theorem exec_effect_of_isGroup {i : Instr} (hi : i.isGroup = true) {s t : State} (h : exec i s = .next t) : Effect i s t := by
  obtain ⟨p, hp⟩ := encodeGroup_of_isGroup hi
  rw [exec_group hp] at h
  obtain ⟨-, rfl⟩ := whenCreated_eq_next h
  exact .group p hp

/-- Everything an instruction can answer. -/
theorem exec_effect {i : Instr} {s t : State} (h : exec i s = .next t) : Effect i s t := by
  cases i with
  | create b => rw [exec_create] at h; cases h; exact .create b rfl
  | destroy => rw [exec_destroy] at h; obtain ⟨-, rfl⟩ := whenCreated_eq_next h; exact .destroy
  | reset b => rw [exec_reset] at h; obtain ⟨-, rfl⟩ := whenCreated_eq_next h; exact .reset b rfl
  | add data block => rw [exec_add] at h; exact .block (exec_block_effect (decodeBlock_isBlock _) h)
  | getGroup => rw [exec_getGroup] at h; obtain ⟨-, rfl⟩ := whenCreated_eq_next h; exact .answer _
  | read r => rw [exec_read] at h; obtain ⟨-, rfl⟩ := whenCreated_eq_next h; exact .answer _
  | lookupIndex => rw [exec_lookupIndex] at h; obtain ⟨-, rfl⟩ := whenCreated_eq_next h; exact .answer _
  | blkErr | blkA | blkB | blkC | blkD | blkCp | blkX5 | blkX6 | blkX7 => exact .block (exec_block_effect rfl h)
  | _ => exact exec_effect_of_isGroup rfl h

/-! ### The configuration bit is written by CREATE alone (R35) -/

theorem isRbds_notMem_rowTouched (i : Instr) : Component.isRbds ∉ rowTouched i := by
  cases i <;> (dsimp only [rowTouched]; decide)

theorem afterGroup_isRbds (i : Instr) (p : GroupBlocks) (s : State) : (afterGroup i p s).isRbds = s.isRbds := by
  refine (afterGroup_untouched i p s .isRbds fun h => ?_).symm
  rcases List.mem_append.mp h with h | h
  · exact absurd h (by decide)
  · exact isRbds_notMem_rowTouched i h

theorem BlockEffect.isRbds {s t : State} (h : BlockEffect s t) : t.isRbds = s.isRbds := by
  cases h with
  | error => rfl
  | stored => rfl
  | completed c r i p => exact afterGroup_isRbds i p _

theorem Effect.isRbds {i : Instr} {s t : State} (h : Effect i s t) (hi : ∀ b, i ≠ .create b) : t.isRbds = s.isRbds := by
  cases h with
  | group p => exact afterGroup_isRbds i p s
  | block h => exact h.isRbds
  | answer => rfl
  | destroy => rfl
  | create b h => exact absurd h (hi b)
  | reset => rfl

/-! ### CREATE and RESET -/

theorem cleared_isCleared (b : Bool) (st : Statistics) (ops : List HostOp) : (State.cleared b st ops).IsCleared := by
  simp [State.IsCleared, State.cleared, AfSet.zero, OdaTable.zero, CivilTime.zero, TmcSys.zero, TmcMsg.zero, TmcPending.zero,
    Additional.zero, Group.zero]

/-- Settles O1: both answer the cleared state, and `Effect.isRbds` says the rest. -/
theorem createAndResetClearTheState : Obligations.CreateAndResetClearTheState := by
  unfold Obligations.CreateAndResetClearTheState
  refine ⟨fun b s => ?_, fun keep s hc => ?_, fun i s t h hi => (exec_effect h).isRbds hi⟩
  · exact ⟨_, exec_create b s, cleared_isCleared _ _ _, rfl, rfl, rfl, rfl, rfl⟩
  · rw [exec_reset, whenCreated_of_created hc]
    exact ⟨_, rfl, cleared_isCleared _ _ _, rfl, rfl, rfl, rfl, rfl⟩

end Sys2Proof.Machine
end

section
/-! The second and subsequent groups of a TMC message in one form: a window stored, then the message published if it was the last
(R267, R268). -/

namespace Sys2Proof.Machine

/-- Publication after the window that was announced last (R267, R268). -/
def publishIfLast (gsi : BitVec 2) (s : State) : State := if gsi = 0 then publishMulti s else s

/-- The window of a second group stored (R267). -/
def State.storeSecond (gsi : BitVec 2) (window : BitVec 28) (s : State) : State :=
  { s with
    grpSeqId := gsi
    optionalTmc := s.optionalTmc.set 0 (windowWord window)
    newTmcMsg := { s.newTmcMsg with length := 1 } }

theorem secondMulti_accept {ci : BitVec 3} {s : State} (h : ci = s.continuityId) (gsi : BitVec 2) (window : BitVec 28) :
    secondMulti ci gsi window s = publishIfLast gsi (s.storeSecond gsi window) := if_pos h

theorem secondMulti_reject {ci : BitVec 3} {s : State} (h : ci ≠ s.continuityId) (gsi : BitVec 2) (window : BitVec 28) :
    secondMulti ci gsi window s = s := if_neg h

/-- A subsequent group is accepted (R268). -/
def State.takesNext (s : State) (ci : BitVec 3) (gsi : BitVec 2) : Prop :=
  s.newTmcMsg.length.toNat < 4 ∧ ci = s.continuityId ∧ 1 ≤ s.grpSeqId.toNat ∧ gsi.toNat = s.grpSeqId.toNat - 1

/-- The window of a subsequent group stored (R268). -/
def State.storeNext (gsi : BitVec 2) (window : BitVec 28) (s : State) (h : s.newTmcMsg.length.toNat < 4) : State :=
  { s with
    optionalTmc := s.optionalTmc.set s.newTmcMsg.length.toNat (windowWord window) h
    newTmcMsg := { s.newTmcMsg with length := s.newTmcMsg.length + 1 }
    grpSeqId := gsi }

theorem nextMulti_accept {ci : BitVec 3} {gsi : BitVec 2} {s : State} (h : s.takesNext ci gsi) (window : BitVec 28) :
    nextMulti ci gsi window s = publishIfLast gsi (s.storeNext gsi window h.1) := by
  unfold nextMulti
  rw [dif_pos h.1, if_pos h.2]
  rfl

theorem nextMulti_reject {ci : BitVec 3} {gsi : BitVec 2} {s : State} (h : ¬s.takesNext ci gsi) (window : BitVec 28) :
    nextMulti ci gsi window s = s := by
  unfold nextMulti
  split
  · rename_i hl
    exact if_neg fun hr => h ⟨hl, hr⟩
  · rfl

end Sys2Proof.Machine
end

section
/-! Nothing but the two reads that show it depends on the configuration bit (R35): every operation commutes with writing the bit. -/

namespace Sys2Proof.Machine

/-- The state with another configuration bit. -/
def State.setRbds (b : Bool) (s : State) : State := { s with isRbds := b }

/-- The operation neither reads nor writes the configuration bit. -/
def RbdsBlind (f : State → State) : Prop := ∀ (b : Bool) (s : State), f (s.setRbds b) = (f s).setRbds b

theorem RbdsBlind.id : RbdsBlind id := fun _ _ => rfl

theorem RbdsBlind.comp {f g : State → State} (hg : RbdsBlind g) (hf : RbdsBlind f) : RbdsBlind fun s => g (f s) := fun b s => by
  show g (f (s.setRbds b)) = (g (f s)).setRbds b
  rw [hf, hg]

/-- A guarded effect that does not see the bit answers the same next state with the other bit. -/
theorem whenCreated_blind {f : State → State} (hf : RbdsBlind f) {s t : State} (h : whenCreated s f = .next t) (b : Bool) :
    whenCreated (s.setRbds b) f = .next (t.setRbds b) := by
  obtain ⟨hc, rfl⟩ := whenCreated_eq_next h
  rw [whenCreated_of_created (s := s.setRbds b) hc, hf]

/-! ### The decoders -/

theorem commonExtractors_blind (g : Group) (tp : Bool) (pty : BitVec 5) : RbdsBlind (commonExtractors g tp pty) := fun b s => by
  rw [commonExtractors_eq, commonExtractors_eq]; rfl

theorem acceptTa_blind (x : Bool) : RbdsBlind (acceptTa x) := fun b s => by rw [acceptTa_eq, acceptTa_eq]; rfl

theorem acceptMs_blind (x : Bool) : RbdsBlind (acceptMs x) := fun b s => by rw [acceptMs_eq, acceptMs_eq]; rfl

theorem addPs_blind (pos : Fin 8) (ch : Byte) : RbdsBlind (addPs pos ch) := fun b s => by rw [addPs_eq, addPs_eq]; rfl

theorem publishPs_blind : RbdsBlind publishPs := fun b s => by rw [publishPs_eq, publishPs_eq]; rfl

theorem stepDi_blind (seg : BitVec 2) (x : Bool) : RbdsBlind (stepDi seg x) := fun b s => by
  by_cases h0 : seg = 0
  · subst h0; rfl
  by_cases hn : seg = s.nextDiSegment
  · by_cases h3 : seg = 3
    · subst h3
      rw [stepDi_last hn.symm, stepDi_last (s := s.setRbds b) hn.symm]; rfl
    · rw [stepDi_expected h0 hn h3, stepDi_expected (s := s.setRbds b) h0 hn h3]; rfl
  · rw [stepDi_other h0 hn, stepDi_other (s := s.setRbds b) h0 hn]; rfl

theorem basicTuning_blind (ta ms dibit : Bool) (seg : BitVec 2) (c0 c1 : Byte) : RbdsBlind (basicTuning ta ms dibit seg c0 c1) :=
  (stepDi_blind seg dibit).comp (publishPs_blind.comp ((addPs_blind _ c1).comp ((addPs_blind _ c0).comp
    ((acceptMs_blind ms).comp (acceptTa_blind ta)))))

theorem addAfPair_blind (b1 b2 : Byte) : RbdsBlind (addAfPair b1 b2) := fun b s => by rw [addAfPair_eq, addAfPair_eq]; rfl

theorem observeEcc_blind (x : Byte) : RbdsBlind (observeEcc x) := fun b s => by rw [observeEcc_eq, observeEcc_eq]; rfl

theorem observeLc_blind (x : Byte) : RbdsBlind (observeLc x) := fun b s => by rw [observeLc_eq, observeLc_eq]; rfl

theorem toggleRt_blind (ab : Bool) : RbdsBlind (toggleRt ab) := fun b s => by rw [toggleRt_eq, toggleRt_eq]; rfl

theorem takeRtSegment_blind {store : State → State} (hs : RbdsBlind store) (seg : BitVec 4) (full : Nat) :
    RbdsBlind (takeRtSegment seg store full) := fun b s => by
  unfold takeRtSegment
  rw [show acceptsRtSegment seg (s.setRbds b) = acceptsRtSegment seg s from rfl, hs]
  split
  · split
    · rfl
    · rfl
  · rfl

theorem terminateRt_blind : RbdsBlind terminateRt := fun b s => by
  unfold terminateRt
  rw [show (s.setRbds b).newRt = s.newRt from rfl]
  cases firstTerminator s.newRt with
  | none => rfl
  | some k => rfl

theorem radioText_blind {store : State → State} (hs : RbdsBlind store) (ab : Bool) (seg : BitVec 4) (full : Nat) :
    RbdsBlind (radioText ab seg store full) := fun b s => by
  unfold radioText
  rw [toggleRt_blind, takeRtSegment_blind hs, terminateRt_blind, reportRt_eq, reportRt_eq]
  rfl

theorem updateOda_blind (gid : BitVec 4) (ver : Version) (aid : Word) : RbdsBlind (updateOda gid ver aid) := fun b s => by
  rw [updateOda_eq, updateOda_eq]; rfl

theorem stageTmcSys_blind {f : State → State} (hf : RbdsBlind f) (g : Group) : RbdsBlind (stageTmcSys g f) := fun b s => by
  by_cases hg : g = s.prevTmcSysGroup
  · rw [stageTmcSys_hit hg, stageTmcSys_hit (s := s.setRbds b) hg]; exact hf b { s with prevTmcSysGroup := g }
  · rw [stageTmcSys_miss hg, stageTmcSys_miss (s := s.setRbds b) hg]; rfl

theorem setTmcSys_blind (v : TmcSys) : RbdsBlind (setTmcSys v) := fun b s => by rw [setTmcSys_eq, setTmcSys_eq]; rfl

theorem tmcSys0_blind (ltn : BitVec 6) (afi enhancedMode : Bool) (mgs : BitVec 4) : RbdsBlind (tmcSys0 ltn afi enhancedMode mgs) :=
  fun b s => setTmcSys_blind _ b s

theorem tmcSys1_blind (gap : BitVec 2) (sid : BitVec 6) (tA tW tD : BitVec 2) : RbdsBlind (tmcSys1 gap sid tA tW tD) :=
  fun b s => setTmcSys_blind _ b s

theorem observeMjd_blind (mjd : BitVec 17) (v : CivilTime) : RbdsBlind (observeMjd mjd v) := fun b s => by
  rw [observeMjd_eq, observeMjd_eq]; rfl

theorem tmcGate_blind {f : State → State} (hf : RbdsBlind f) (g : Group) : RbdsBlind (tmcGate g f) := fun b s => by
  by_cases hg : s.prevTmcArmed = true ∧ g = s.prevTmcGroup
  · rw [tmcGate_hit hg, tmcGate_hit (s := s.setRbds b) hg]; exact hf b { s with prevTmcArmed := false }
  · rw [tmcGate_miss hg, tmcGate_miss (s := s.setRbds b) hg]; rfl

theorem publishSingle_blind (v : TmcPending) : RbdsBlind (publishSingle v) := fun b s => by
  rw [publishSingle_eq, publishSingle_eq]; rfl

theorem startMulti_blind (ci : BitVec 3) (v : TmcPending) : RbdsBlind (startMulti ci v) := fun _ _ => rfl

theorem publishMulti_blind : RbdsBlind publishMulti := fun b s => by rw [publishMulti_eq, publishMulti_eq]; rfl

theorem publishIfLast_blind (gsi : BitVec 2) : RbdsBlind (publishIfLast gsi) := fun b s => by
  unfold publishIfLast
  rw [publishMulti_blind]
  split <;> rfl

theorem secondMulti_blind (ci : BitVec 3) (gsi : BitVec 2) (window : BitVec 28) : RbdsBlind (secondMulti ci gsi window) := fun b s => by
  by_cases h : ci = s.continuityId
  · rw [secondMulti_accept h, secondMulti_accept (s := s.setRbds b) h]
    exact publishIfLast_blind gsi b (s.storeSecond gsi window)
  · rw [secondMulti_reject h, secondMulti_reject (s := s.setRbds b) h]

theorem nextMulti_blind (ci : BitVec 3) (gsi : BitVec 2) (window : BitVec 28) : RbdsBlind (nextMulti ci gsi window) := fun b s => by
  by_cases h : s.takesNext ci gsi
  · rw [nextMulti_accept h, nextMulti_accept (s := s.setRbds b) h]
    exact publishIfLast_blind gsi b (s.storeNext gsi window h.1)
  · rw [nextMulti_reject h, nextMulti_reject (s := s.setRbds b) h]

theorem togglePtyn_blind (ab : Bool) : RbdsBlind (togglePtyn ab) := fun b s => by rw [togglePtyn_eq, togglePtyn_eq]; rfl

theorem stagePtyn_blind (h : Fin 2) (v : Chars 4) : RbdsBlind (stagePtyn h v) := fun b s => by
  by_cases hv : v = s.newPtyn[h]
  · rw [stagePtyn_agree hv, stagePtyn_agree (s := s.setRbds b) hv]; rfl
  · rw [stagePtyn_differ hv, stagePtyn_differ (s := s.setRbds b) hv]; rfl

theorem publishPtyn_blind : RbdsBlind publishPtyn := fun b s => by rw [publishPtyn_eq, publishPtyn_eq]; rfl

/-! ### The rows -/

theorem rowDecoder_blind (i : Instr) (p : GroupBlocks) : RbdsBlind (rowDecoder i p) := by
  cases i with
  | g0a => exact (addAfPair_blind _ _).comp (basicTuning_blind _ _ _ _ _ _)
  | g0b => exact basicTuning_blind _ _ _ _ _ _
  | g1aEcc => exact observeEcc_blind _
  | g1aLc => exact observeLc_blind _
  | g2a => exact radioText_blind (fun _ _ => rfl) _ _ _
  | g2b => exact radioText_blind (fun _ _ => rfl) _ _ _
  | g3aTmcSys0 => exact (stageTmcSys_blind (tmcSys0_blind _ _ _ _) _).comp (updateOda_blind _ _ _)
  | g3aTmcSys1 => exact (stageTmcSys_blind (tmcSys1_blind _ _ _ _ _) _).comp (updateOda_blind _ _ _)
  | g3aTmcSysX => exact (stageTmcSys_blind RbdsBlind.id _).comp (updateOda_blind _ _ _)
  | g3a => exact updateOda_blind _ _ _
  | g4a => exact observeMjd_blind _ _
  | g8aTi => exact tmcGate_blind RbdsBlind.id _
  | g8aSg => exact tmcGate_blind (publishSingle_blind _) _
  | g8aMg1 => exact tmcGate_blind (startMulti_blind _ _) _
  | g8aMg2 => exact tmcGate_blind (secondMulti_blind _ _ _) _
  | g8aMgn => exact tmcGate_blind (nextMulti_blind _ _ _) _
  | g10a => exact publishPtyn_blind.comp ((stagePtyn_blind _ _).comp (togglePtyn_blind _))
  | _ => exact RbdsBlind.id

theorem clearOutputs_blind : RbdsBlind State.clearOutputs := fun _ _ => rfl

theorem afterGroup_blind (i : Instr) (p : GroupBlocks) : RbdsBlind (afterGroup i p) :=
  (rowDecoder_blind i p).comp ((commonExtractors_blind _ _ _).comp clearOutputs_blind)

theorem enterBlock_blind (e c : Bool) : RbdsBlind (enterBlock e c) := fun _ _ => rfl

theorem groupError_blind : RbdsBlind groupError := fun _ _ => rfl

theorem takeA_blind (r : RawBlock) : RbdsBlind (takeA r) := fun b s => by
  by_cases h : s.decodeState = .empty
  · rw [takeA_empty h, takeA_empty (s := s.setRbds b) h]; rfl
  · rw [takeA_other h, takeA_other (s := s.setRbds b) h, groupError_blind]

theorem takeB_blind (r : RawBlock) : RbdsBlind (takeB r) := fun b s => by
  by_cases h : s.decodeState = .aReceived
  · rw [takeB_aReceived h, takeB_aReceived (s := s.setRbds b) h]; rfl
  · rw [takeB_other h, takeB_other (s := s.setRbds b) h, groupError_blind]

theorem takeC_blind (r : RawBlock) : RbdsBlind (takeC r) := fun b s => by
  by_cases h : s.decodeState = .bReceived
  · rw [takeC_bReceived h, takeC_bReceived (s := s.setRbds b) h]; rfl
  · rw [takeC_other h, takeC_other (s := s.setRbds b) h, groupError_blind]

/-- The instruction answers the same next state with the other bit, from the state with that bit. -/
def AnswersWithBit (i : Instr) : Prop := ∀ (b : Bool) (s t : State), exec i s = .next t → exec i (s.setRbds b) = .next (t.setRbds b)

theorem answersWithBit_of_guarded {i : Instr} {f : State → State} (hi : ∀ s, exec i s = whenCreated s f) (hf : RbdsBlind f) :
    AnswersWithBit i := fun b s t h => by
  rw [hi] at h ⊢
  exact whenCreated_blind hf h b

theorem group_answersWithBit {i : Instr} (hi : i.isGroup = true) : AnswersWithBit i :=
  have ⟨p, hp⟩ := encodeGroup_of_isGroup hi
  answersWithBit_of_guarded (exec_group hp) (afterGroup_blind i p)

theorem blkD_answersWithBit (c : Bool) (u : BitVec 3) (d : Word) : AnswersWithBit (.blkD c u d) := fun b s t h => by
  by_cases hd : s.decodeState = .cReceived
  · rw [exec_blkD_complete c u d hd] at h
    rw [exec_blkD_complete c u d (s := s.setRbds b) hd]
    exact group_answersWithBit (decodeGroup_isGroup _) b _ t h
  · rw [exec_blkD_early c u d hd] at h
    rw [exec_blkD_early c u d (s := s.setRbds b) hd]
    exact whenCreated_blind (groupError_blind.comp (enterBlock_blind false c)) h b

theorem block_answersWithBit {i : Instr} (hi : i.isBlock = true) : AnswersWithBit i := by
  cases i with
  | blkErr c u l d => exact answersWithBit_of_guarded (exec_blkErr c u l d) (groupError_blind.comp (enterBlock_blind true c))
  | blkA c u d => exact answersWithBit_of_guarded (exec_blkA c u d) ((takeA_blind _).comp (enterBlock_blind false c))
  | blkB c u d => exact answersWithBit_of_guarded (exec_blkB c u d) ((takeB_blind _).comp (enterBlock_blind false c))
  | blkC c u d => exact answersWithBit_of_guarded (exec_blkC c u d) ((takeC_blind _).comp (enterBlock_blind false c))
  | blkD c u d => exact blkD_answersWithBit c u d
  | blkCp c u d => exact answersWithBit_of_guarded (exec_blkCp c u d) ((takeC_blind _).comp (enterBlock_blind false c))
  | blkX5 c u d => exact answersWithBit_of_guarded (exec_blkX5 c u d) (groupError_blind.comp (enterBlock_blind false c))
  | blkX6 c u d => exact answersWithBit_of_guarded (exec_blkX6 c u d) (groupError_blind.comp (enterBlock_blind false c))
  | blkX7 c u d => exact answersWithBit_of_guarded (exec_blkX7 c u d) (groupError_blind.comp (enterBlock_blind false c))
  | _ => cases hi

theorem readReg_setRbds {r : PublicReg} (hr : r ≠ .isRbds) (b : Bool) (s : State) : (s.setRbds b).readReg r = s.readReg r := by
  cases r <;> first | rfl | exact absurd rfl hr

theorem read_answersWithBit {r : PublicReg} (hr : r ≠ .isRbds) : AnswersWithBit (.read r) :=
  answersWithBit_of_guarded (exec_read r) fun b s => by rw [readReg_setRbds hr]; rfl

theorem answersWithBit {i : Instr} (hc : ∀ b, i ≠ .create b) (hr : i ≠ .read .isRbds) (hl : i ≠ .lookupIndex) : AnswersWithBit i := by
  cases i with
  | create b => exact absurd rfl (hc b)
  | destroy => exact answersWithBit_of_guarded exec_destroy fun _ _ => rfl
  | reset keep => exact answersWithBit_of_guarded (exec_reset keep) fun _ _ => rfl
  | add data block => exact fun b s t h => by rw [exec_add] at h ⊢; exact block_answersWithBit (decodeBlock_isBlock _) b s t h
  | getGroup => exact answersWithBit_of_guarded exec_getGroup fun _ _ => rfl
  | read r => exact read_answersWithBit fun h => hr (by rw [h])
  | lookupIndex => exact absurd rfl hl
  | blkErr | blkA | blkB | blkC | blkD | blkCp | blkX5 | blkX6 | blkX7 => exact block_answersWithBit rfl
  | _ => exact group_answersWithBit rfl

/-- Settles O52: the bit is kept by every effect but CREATE's, and every operation but the two reads commutes with writing it. -/
theorem configurationBitHasNoEffect : Obligations.ConfigurationBitHasNoEffect := by
  unfold Obligations.ConfigurationBitHasNoEffect
  refine ⟨fun b s => ⟨_, exec_create b s, rfl⟩, fun i s t b hc h => ⟨(exec_effect h).isRbds hc, fun hr hl => ?_⟩⟩
  exact answersWithBit hc hr hl b s t h

end Sys2Proof.Machine
end

section
/-! The tables of the state under their updates: the entries of a set and the rows of a table as lists, the sum of the per-type
counters, and the optional fields of a TMC message. -/

namespace Sys2Proof.Machine

/-- Writing the element after the meaningful ones appends it to them. -/
theorem take_set_succ {α : Type} {n : Nat} (v : Vector α n) (k : Nat) (x : α) (h : k < n) :
    (v.set k x h).toList.take (k + 1) = v.toList.take k ++ [x] := by
  rw [Vector.toList_set, List.take_add_one, List.take_set_of_le (le_refl k), List.getElem?_set_self (by simpa using h)]
  rfl

/-! ### The alternative-frequency set (R169 to R172) -/

theorem AfSet.mem_entries {a : AfSet} (f : BitVec 32) : f ∈ a.entries ↔ ∃ i : Fin 25, i.val < a.size.toNat ∧ a.af[i] = f := by
  unfold AfSet.entries
  rw [List.mem_take_iff_getElem]
  constructor
  · rintro ⟨k, hk, rfl⟩
    have hk' : k < a.size.toNat ∧ k < 25 := by simpa using hk
    exact ⟨⟨k, hk'.2⟩, hk'.1, by simp⟩
  · rintro ⟨i, hi, rfl⟩
    exact ⟨i.val, by simpa using hi, by simp⟩

theorem AfSet.holds_iff (a : AfSet) (f : BitVec 32) : a.holds f = true ↔ f ∈ a.entries := by
  rw [AfSet.mem_entries, AfSet.holds, decide_eq_true_iff]

/-- What the invariant says of the set (R46 (3), R171). -/
def AfSet.Ok (a : AfSet) : Prop :=
  (a.size.toNat ≤ a.announcedAf.toNat ∧ a.announcedAf.toNat ≤ 25) ∧ a.entries.Nodup

theorem AfSet.Ok.insert {a : AfSet} (h : a.Ok) (f : BitVec 32) : (a.insert f).Ok := by
  unfold AfSet.insert
  split
  · rename_i hlt
    split
    · rename_i hf
      obtain ⟨⟨hs, ha⟩, hn⟩ := h
      have hsize : (a.size + 1).toNat = a.size.toNat + 1 := by
        have : a.size.toNat < 25 := hlt
        simp; omega
      have hnew : f ∉ a.entries := by rw [← AfSet.holds_iff, hf.2]; decide
      refine ⟨⟨by dsimp only; omega, ha⟩, ?_⟩
      rw [AfSet.entries]
      dsimp only
      rw [hsize, take_set_succ]
      exact hn.append (List.nodup_singleton f) (List.disjoint_singleton.mpr hnew)
    · exact h
  · exact h

theorem AfSet.Ok.announce {a : AfSet} (h : a.Ok) {k : BitVec 5} (hk : k.toNat ≤ 25) : (a.announce k).Ok := by
  obtain ⟨⟨hs, ha⟩, hn⟩ := h
  unfold AfSet.announce
  split
  · rename_i hlt
    exact ⟨⟨le_refl _, hk⟩, hn.sublist (List.take_sublist_take_left (by dsimp only; omega))⟩
  · exact ⟨⟨by dsimp only; omega, hk⟩, hn⟩

theorem AfSet.Ok.plain {a : AfSet} (h : a.Ok) (n : Byte) : (a.plain n).Ok := by
  unfold AfSet.plain afCode
  split_ifs with hv hc
  · exact h.insert _
  · refine h.announce ?_
    simp only [BitVec.toNat_ofNat]
    omega
  · exact h

theorem AfSet.Ok.lfmf {a : AfSet} (h : a.Ok) (n : Byte) : (a.lfmf n).Ok := by
  unfold AfSet.lfmf
  cases lfmfFrequency n with
  | some f => exact h.insert f
  | none => exact h

theorem AfSet.Ok.pair {a : AfSet} (h : a.Ok) (b1 b2 : Byte) : (a.pair b1 b2).Ok := by
  unfold AfSet.pair
  split
  · exact h.lfmf b2
  · exact (h.plain b1).plain b2

/-! ### The open-data-application table (R221) -/

/-- The pair that identifies a row (R46 (4)). -/
def OdaRow.key (r : OdaRow) : BitVec 4 × Version := (r.groupId, r.version)

theorem OdaTable.find_some {gid : BitVec 4} {ver : Version} {t : OdaTable} {i : Fin 18} (h : t.find gid ver = some i) :
    i.val < t.size ∧ t.oda[i].key = (gid, ver) := by
  have := List.find?_some h
  simp only [Bool.and_eq_true, decide_eq_true_eq, beq_iff_eq] at this
  exact ⟨this.1.1, Prod.ext this.1.2 this.2⟩

theorem OdaTable.find_none {gid : BitVec 4} {ver : Version} {t : OdaTable} (h : t.find gid ver = none) (i : Fin 18)
    (hi : i.val < t.size) : t.oda[i].key ≠ (gid, ver) := by
  intro hk
  have := List.find?_eq_none.mp h i (List.mem_finRange i)
  simp only [Bool.and_eq_true, decide_eq_true_eq, beq_iff_eq] at this
  exact this ⟨⟨hi, congrArg Prod.fst hk⟩, congrArg Prod.snd hk⟩

/-- What the invariant says of the table (R46 (4)). -/
def OdaTable.Ok (t : OdaTable) : Prop := t.size ≤ 18 ∧ (t.rows.map OdaRow.key).Nodup

theorem OdaTable.rows_replace (t : OdaTable) (i : Fin 18) (r : OdaRow) :
    (OdaTable.mk t.size (t.oda.set i r)).rows = t.rows.set i.val r := by
  unfold OdaTable.rows
  rw [Vector.toList_set, List.take_set]

theorem OdaTable.rows_append {t : OdaTable} (h : t.size < 18) (r : OdaRow) :
    (OdaTable.mk (t.size + 1) (t.oda.set t.size r h)).rows = t.rows ++ [r] := take_set_succ t.oda t.size r h

theorem OdaTable.getElem_rows {t : OdaTable} {i : Fin 18} (h : i.val < t.size) : t.rows[i.val]? = some t.oda[i] := by
  unfold OdaTable.rows
  rw [List.getElem?_take_of_lt h]
  simp

theorem OdaTable.key_notMem_of_find_none {gid : BitVec 4} {ver : Version} {t : OdaTable} (h : t.find gid ver = none) :
    (gid, ver) ∉ t.rows.map OdaRow.key := by
  intro hm
  obtain ⟨r, hr, hk⟩ := List.mem_map.mp hm
  obtain ⟨k, hlt, rfl⟩ := List.mem_take_iff_getElem.mp hr
  have hlt' : k < t.size ∧ k < 18 := by simpa using hlt
  exact OdaTable.find_none h ⟨k, hlt'.2⟩ hlt'.1 (by simpa using hk)

theorem OdaTable.update_ok {t : OdaTable} (h : t.Ok) (gid : BitVec 4) (ver : Version) (aid : Word) : (t.update gid ver aid).Ok := by
  obtain ⟨hsize, hkeys⟩ := h
  unfold OdaTable.update
  cases hf : t.find gid ver with
  | some i =>
    obtain ⟨hi, -⟩ := OdaTable.find_some hf
    refine ⟨hsize, ?_⟩
    have hk : (t.rows.set i.val { t.oda[i] with aid := aid }).map OdaRow.key = t.rows.map OdaRow.key := by
      have hg : (t.rows.map OdaRow.key)[i.val]? = some t.oda[i].key := by
        rw [List.getElem?_map, OdaTable.getElem_rows hi]; rfl
      obtain ⟨hl, hg⟩ := List.getElem?_eq_some_iff.mp hg
      rw [List.map_set]
      exact (congrArg _ hg.symm).trans (List.set_getElem_self hl)
    rw [OdaTable.rows_replace, hk]
    exact hkeys
  | none =>
    dsimp only
    split
    · rename_i hlt
      refine ⟨hlt, ?_⟩
      rw [OdaTable.rows_append, List.map_append]
      exact hkeys.append (List.nodup_singleton _) (List.disjoint_singleton.mpr (OdaTable.key_notMem_of_find_none hf))
    · exact ⟨hsize, hkeys⟩

theorem OdaTable.update_size_of_appends {gid : BitVec 4} {ver : Version} {t : OdaTable} (h : t.appends gid ver = true) (aid : Word) :
    (t.update gid ver aid).size ≠ 0 := by
  unfold OdaTable.appends at h
  unfold OdaTable.update
  cases hf : t.find gid ver with
  | some i => rw [hf] at h; cases h
  | none =>
    have hlt : t.size < 18 := by simpa [hf] using h
    dsimp only
    rw [dif_pos hlt]
    exact Nat.succ_ne_zero _

theorem OdaTable.update_size_of_not_appends {gid : BitVec 4} {ver : Version} {t : OdaTable} (h : t.appends gid ver = false)
    (aid : Word) : (t.update gid ver aid).size = t.size := by
  unfold OdaTable.appends at h
  unfold OdaTable.update
  cases hf : t.find gid ver with
  | some i => rfl
  | none =>
    have hlt : ¬t.size < 18 := by simpa [hf] using h
    dsimp only
    rw [dif_neg hlt]

/-! ### The counters (R128, R147) -/

theorem foldr_add_set_succ (l : List Counter) (k : Nat) (h : k < l.length) :
    (l.set k (l[k] + 1)).foldr (· + ·) 0 = l.foldr (· + ·) 0 + 1 := by
  induction l generalizing k with
  | nil => exact absurd h (Nat.not_lt_zero k)
  | cons x xs ih =>
    cases k with
    | zero => simp only [List.set_cons_zero, List.foldr_cons, List.getElem_cons_zero]; ac_rfl
    | succ k =>
      have := ih k (Nat.lt_of_succ_lt_succ h)
      simp only [List.set_cons_succ, List.foldr_cons, List.getElem_cons_succ, this]; ac_rfl

theorem groupTypeSum_count (v : Vector Counter 16) (k : Nat) (h : k < 16) :
    groupTypeSum (v.set k (count v[k]) h) = groupTypeSum v + 1 := by
  unfold groupTypeSum count
  rw [Vector.toList_set]
  exact foldr_add_set_succ v.toList k (by simpa using h)

/-! ### The optional fields of a TMC message (R270 to R272) -/

/-- What the invariant says of the optional fields (R271, R272). -/
def Additional.Ok (a : Additional) : Prop :=
  a.size ≤ 28 ∧ ∀ i : Fin 28, if i.val < a.size then a.fields[i].label ≠ 15 else a.fields[i] = ⟨0, 0⟩

theorem Additional.zero_ok : Additional.zero.Ok := by
  refine ⟨Nat.zero_le _, fun i => ?_⟩
  rw [if_neg (show ¬i.val < Additional.zero.size from Nat.not_lt_zero _)]
  simp [Additional.zero]

theorem appendField_ok {a : Additional} (h : a.Ok) (label : BitVec 4) (data : Word) : (appendField a label data).Ok := by
  unfold appendField
  split
  · exact h
  · rename_i hl
    split
    · rename_i hlt
      refine ⟨hlt, fun i => ?_⟩
      have hi := h.2 i
      dsimp only
      by_cases he : a.size = i.val
      · rw [if_pos (by omega)]
        simpa [he] using hl
      · have hget : (a.fields.set a.size ⟨label, data⟩ hlt)[i] = a.fields[i] := by simp [he]
        have hlt' : i.val < a.size + 1 ↔ i.val < a.size := by omega
        rw [hget]
        simpa only [hlt'] using hi
    · exact h

theorem unpackLoop_ok (s : BitVec 112) (total fuel : Nat) {pos : Nat} {out : Additional} (h : out.Ok) :
    (unpackLoop s total fuel pos out).Ok := by
  induction fuel generalizing pos out with
  | zero => exact h
  | succ fuel ih =>
    unfold unpackLoop
    dsimp only
    split
    · exact h
    · split
      · exact h
      · exact ih (appendField_ok h _ _)

theorem unpack_ok (n : Nat) (w : Vector (BitVec 32) Config.tmcWindows) : (unpack n w).Ok := unpackLoop_ok _ _ _ Additional.zero_ok

theorem windowWord_low (window : BitVec 28) : (windowWord window).extractLsb' 0 4 = 0 := by
  apply BitVec.eq_of_getLsbD_eq
  intro k hk
  simp only [windowWord, BitVec.getLsbD_extractLsb', BitVec.getLsbD_append]
  interval_cases k <;> simp

end Sys2Proof.Machine
end

section
/-! Every operation keeps the invariant of the machine. An operation that writes none of the registers the invariant speaks of keeps
it by its frame; the others are taken one by one. -/

namespace Sys2Proof.Machine

/-! ### The reset state -/

/-- A cleared state meets the invariant, whatever the statistics it keeps, if they are consistent (R45, R46, R128). -/
theorem cleared_inv {st : Statistics} (h : st.groupCnt = groupTypeSum st.groupTypeCnt) (b : Bool) (ops : List HostOp) :
    (State.cleared b st ops).Inv where
  afBound := ⟨le_refl _, Nat.zero_le _⟩
  afNodup := List.nodup_nil
  odaBound := Nat.zero_le _
  odaUnique := List.nodup_nil
  odaInfo := rfl
  rtPadded := ⟨Nat.zero_le _, fun i _ => by simp [State.cleared]⟩
  rtExpected := Nat.zero_le _
  tmcWindowCount := ⟨Nat.zero_le _, fun h => absurd h (show ¬1 ≤ 0 from Nat.not_succ_le_zero 0)⟩
  tmcWindowLow := fun i => by simp [State.cleared]
  tmcFields := Additional.zero_ok
  validWidth := fun _ _ => BitVec.getLsbD_zero
  maskWidth := fun _ _ => BitVec.getLsbD_zero
  tmcOneKind := fun h => absurd h.1 (show ¬(0#32).getLsbD 12 = true from by decide)
  groupSum := h

theorem statistics_zero_consistent : Statistics.zero.groupCnt = groupTypeSum Statistics.zero.groupTypeCnt := by decide

/-- Settles O3: the reset state is a cleared state. -/
theorem resetMeetsTheInvariant : Obligations.ResetMeetsTheInvariant := cleared_inv statistics_zero_consistent false []

/-! ### The flag words -/

/-- What the invariant says of the two flag words (R31, R32, C5). -/
structure FlagsOk (s : State) : Prop where
  validWidth : ∀ k, 16 ≤ k → s.validFields.getLsbD k = false
  maskWidth : ∀ k, 17 ≤ k → s.updMask.getLsbD k = false
  tmcOneKind : ¬(s.isValid .tmcSg = true ∧ s.isValid .tmcMg = true)

theorem State.Inv.flags {s : State} (h : s.Inv) : FlagsOk s := ⟨h.validWidth, h.maskWidth, h.tmcOneKind⟩

/-- The fields whose two bits an operation may move freely: the bit of `valid_fields` is one of its sixteen and no TMC kind. -/
def Field.isPlain (f : Field) : Bool := f != .oda && f != .tmcSg && f != .tmcMg

theorem Field.pos_ne_of_isPlain {f g : Field} (hf : f.isPlain = true) (hg : g.isPlain = false) : f.pos ≠ g.pos := fun h => by
  rw [Field.pos_inj h, hg] at hf; cases hf

theorem Field.pos_lt_of_isPlain {f : Field} (hf : f.isPlain = true) : f.pos < 16 :=
  have := f.pos_lt
  have := Field.pos_ne_of_isPlain hf (show Field.oda.isPlain = false from rfl)
  have : Field.oda.pos = 16 := rfl
  by omega

theorem FlagsOk.of_bits {fs : List Field} {s t : State} (h : FlagsOk s) (hb : BitsKept fs s t) (hfs : ∀ f ∈ fs, f.isPlain = true) :
    FlagsOk t := by
  refine ⟨fun k hk => ?_, fun k hk => ?_, ?_⟩
  · rw [(hb k fun f hf => by have := Field.pos_lt_of_isPlain (hfs f hf); omega).1]; exact h.validWidth k hk
  · rw [(hb k fun f _ => by have := f.pos_lt; omega).2]; exact h.maskWidth k hk
  · unfold State.isValid
    rw [(hb _ fun f hf => Field.pos_ne_of_isPlain (hfs f hf) (show Field.tmcSg.isPlain = false from rfl)).1,
      (hb _ fun f hf => Field.pos_ne_of_isPlain (hfs f hf) (show Field.tmcMg.isPlain = false from rfl)).1]
    exact h.tmcOneKind

theorem or_mask_width {n : Nat} {v : Mask} (hv : ∀ k, n ≤ k → v.getLsbD k = false) {f : Field} (hf : f.pos < n) (k : Nat) (hk : n ≤ k) :
    (v ||| f.mask).getLsbD k = false := by
  rw [or_mask_other (by omega)]; exact hv k hk

theorem clear_mask_width {n : Nat} {v : Mask} (hv : ∀ k, n ≤ k → v.getLsbD k = false) (f : Field) (k : Nat) (hk : n ≤ k) :
    (v &&& ~~~f.mask).getLsbD k = false := by
  rw [getLsbD_clear_mask, hv k hk, Bool.false_and]

/-- The publication of one kind of TMC message retracts the other (R264, R272). -/
theorem flagsOk_publishTmc {s : State} (h : FlagsOk s) {f g : Field} (hfg : (f = .tmcSg ∧ g = .tmcMg) ∨ (f = .tmcMg ∧ g = .tmcSg))
    (changed : Bool) : FlagsOk { s with
      validFields := (s.validFields ||| f.mask) &&& ~~~g.mask
      updMask := if changed then s.updMask ||| f.mask else s.updMask } := by
  have hf : f.pos < 16 := by rcases hfg with ⟨rfl, -⟩ | ⟨rfl, -⟩ <;> decide
  refine ⟨clear_mask_width (or_mask_width h.validWidth hf) g, ?_, ?_⟩
  · cases changed
    · exact h.maskWidth
    · exact or_mask_width h.maskWidth f.pos_lt
  · have hg : ((s.validFields ||| f.mask) &&& ~~~g.mask).getLsbD g.pos = false := by
      rw [getLsbD_clear_mask]; simp
    rintro ⟨h1, h2⟩
    rcases hfg with ⟨-, rfl⟩ | ⟨-, rfl⟩
    · exact absurd (h2.symm.trans hg) (by decide)
    · exact absurd (h1.symm.trans hg) (by decide)

/-! ### Operations outside the invariant's registers -/

/-- The registers the invariant speaks of, but for the two flag words. -/
def invRegisters : List Component :=
  [.rdsAf, .rdsOda, .decodeInformation, .rt, .rtLength, .nextRtSegment, .newTmcMsg, .grpSeqId, .optionalTmc, .tmcMsg, .stats]

theorem State.Inv.of_frame {cs : List Component} {fs : List Field} {s t : State} (h : s.Inv) (hu : Untouched cs s t)
    (hb : BitsKept fs s t) (hcs : ∀ c ∈ cs, c ∉ invRegisters) (hfs : ∀ f ∈ fs, f.isPlain = true) : t.Inv := by
  have same (c : Component) (hc : c ∈ invRegisters) : c.same s t := hu c fun m => hcs c m hc
  have hf := h.flags.of_bits hb hfs
  have haf : s.rdsAf = t.rdsAf := same .rdsAf (by decide)
  have hoda : s.rdsOda = t.rdsOda := same .rdsOda (by decide)
  have hinfo : s.decodeInformation = t.decodeInformation := same .decodeInformation (by decide)
  have hrt : s.rt = t.rt := same .rt (by decide)
  have hlen : s.rtLength = t.rtLength := same .rtLength (by decide)
  have hnext : s.nextRtSegment = t.nextRtSegment := same .nextRtSegment (by decide)
  have hnew : s.newTmcMsg = t.newTmcMsg := same .newTmcMsg (by decide)
  have hseq : s.grpSeqId = t.grpSeqId := same .grpSeqId (by decide)
  have hopt : s.optionalTmc = t.optionalTmc := same .optionalTmc (by decide)
  have hmsg : s.tmcMsg = t.tmcMsg := same .tmcMsg (by decide)
  have hstats : s.stats = t.stats := same .stats (by decide)
  exact {
    afBound := haf ▸ h.afBound
    afNodup := haf ▸ h.afNodup
    odaBound := hoda ▸ h.odaBound
    odaUnique := hoda ▸ h.odaUnique
    odaInfo := hinfo ▸ hoda ▸ h.odaInfo
    rtPadded := hrt ▸ hlen ▸ h.rtPadded
    rtExpected := hnext ▸ h.rtExpected
    tmcWindowCount := hnew ▸ hseq ▸ h.tmcWindowCount
    tmcWindowLow := hopt ▸ h.tmcWindowLow
    tmcFields := hmsg ▸ h.tmcFields
    validWidth := hf.validWidth
    maskWidth := hf.maskWidth
    tmcOneKind := hf.tmcOneKind
    groupSum := hstats ▸ h.groupSum }

/-! ### The operations on the invariant's registers -/

theorem addAfPair_inv {s : State} (h : s.Inv) (b1 b2 : Byte) : (addAfPair b1 b2 s).Inv := by
  have hf := h.flags.of_bits (addAfPair_bits b1 b2 s) (by decide)
  have ha : (s.rdsAf.pair b1 b2).Ok := AfSet.Ok.pair ⟨h.afBound, h.afNodup⟩ b1 b2
  rw [addAfPair_eq] at hf ⊢
  exact { h with
    afBound := ha.1, afNodup := ha.2
    validWidth := hf.validWidth, maskWidth := hf.maskWidth, tmcOneKind := hf.tmcOneKind }

theorem toggleRt_same {ab : Bool} {s : State} (h : ab = s.rtAbFlag) : toggleRt ab s = s := if_pos h

theorem toggleRt_inv {s : State} (h : s.Inv) (ab : Bool) : (toggleRt ab s).Inv := by
  have hf := h.flags.of_bits (toggleRt_bits ab s) (by decide)
  by_cases hab : ab = s.rtAbFlag
  · rw [toggleRt_same hab]; exact h
  · rw [toggleRt_eq] at hf ⊢
    simp only [if_neg hab] at hf ⊢
    exact { h with
      rtPadded := ⟨Nat.zero_le _, fun i _ => by simp⟩, rtExpected := Nat.zero_le _
      validWidth := hf.validWidth, maskWidth := hf.maskWidth, tmcOneKind := hf.tmcOneKind }

/-- The published text is padded beyond the published length (R23, R204). -/
theorem rtText_padded {len : Nat} (hlen : len ≤ 64) (staged : Chars 64) :
    (BitVec.ofNat 7 len).toNat ≤ 64 ∧ ∀ i : Fin 64, (BitVec.ofNat 7 len).toNat ≤ i.val → (rtText len staged)[i] = 0 := by
  have hn : (BitVec.ofNat 7 len).toNat = len := by simp only [BitVec.toNat_ofNat]; omega
  rw [hn]
  refine ⟨hlen, fun i hi => ?_⟩
  simp [rtText, Nat.not_lt.mpr hi]

theorem publishRt_inv {s : State} (h : s.Inv) {len : Nat} (hlen : len ≤ 64) : (publishRt len s).Inv := by
  have hf := h.flags.of_bits (publishRt_bits len s) (by decide)
  rw [publishRt_eq] at hf ⊢
  exact ⟨h.afBound, h.afNodup, h.odaBound, h.odaUnique, h.odaInfo, rtText_padded hlen s.newRt, Nat.zero_le _, h.tmcWindowCount,
    h.tmcWindowLow, h.tmcFields, hf.validWidth, hf.maskWidth, hf.tmcOneKind, h.groupSum⟩

theorem setNewRt_inv {s : State} (h : s.Inv) (staged : Chars 64) : ({ s with newRt := staged } : State).Inv := { h with }

/-- Publication does not read the expected segment (R204). -/
theorem publishRt_setNext (len : Nat) (s : State) (next : BitVec 5) :
    publishRt len { s with nextRtSegment := next } = publishRt len s := rfl

theorem nextSegment_le {seg : BitVec 4} (h : seg ≠ 15) : (seg.setWidth 5 + 1).toNat ≤ 15 := by
  have hlt := seg.isLt
  have hne : seg.toNat ≠ 15 := fun he => h (BitVec.eq_of_toNat_eq he)
  have h1 : (seg.setWidth 5 + 1).toNat = (seg.toNat + 1) % 32 := by simp
  omega

/-- A store of characters expects the segment after it (R203). -/
def StoresSegment (seg : BitVec 4) (store : State → State) : Prop :=
  ∀ s, store s = { s with newRt := (store s).newRt, nextRtSegment := seg.setWidth 5 + 1 }

theorem takeRtSegment_inv {s : State} (h : s.Inv) {seg : BitVec 4} {store : State → State} (hs : StoresSegment seg store) {full : Nat}
    (hfull : full ≤ 64) : (takeRtSegment seg store full s).Inv := by
  unfold takeRtSegment
  rw [hs s]
  split
  · split
    · exact publishRt_setNext full { s with newRt := (store s).newRt } _ ▸ publishRt_inv (setNewRt_inv h _) hfull
    · rename_i hseg
      exact { h with rtExpected := nextSegment_le hseg }
  · exact h

theorem terminateRt_inv {s : State} (h : s.Inv) : (terminateRt s).Inv := by
  unfold terminateRt
  split
  · exact h
  · rename_i k _
    exact publishRt_inv (setNewRt_inv h _) (le_of_lt k.isLt)

theorem radioText_inv {s : State} (h : s.Inv) {seg : BitVec 4} {store : State → State} (hs : StoresSegment seg store) {full : Nat}
    (hfull : full ≤ 64) (ab : Bool) : (radioText ab seg store full s).Inv :=
  (terminateRt_inv (takeRtSegment_inv (toggleRt_inv h ab) hs hfull)).of_frame (reportRt_untouched s _) (reportRt_bits s _)
    (by decide) (by decide)

theorem updateOda_inv {s : State} (h : s.Inv) (gid : BitVec 4) (ver : Version) (aid : Word) : (updateOda gid ver aid s).Inv := by
  have ho : (s.rdsOda.update gid ver aid).Ok := OdaTable.update_ok ⟨h.odaBound, h.odaUnique⟩ gid ver aid
  have hmask : ∀ c : Bool, ∀ k, 17 ≤ k → (if c then s.updMask ||| Field.oda.mask else s.updMask).getLsbD k = false := by
    intro c
    cases c
    · exact h.maskWidth
    · exact or_mask_width h.maskWidth (Field.pos_lt _)
  rw [updateOda_eq]
  refine { h with odaBound := ho.1, odaUnique := ho.2, odaInfo := ?_, maskWidth := hmask _ }
  cases happ : s.rdsOda.appends gid ver with
  | true =>
    show s.decodeInformation ||| infoOda = _
    rw [if_neg (OdaTable.update_size_of_appends happ aid), h.odaInfo]
    split <;> decide
  | false =>
    show s.decodeInformation = _
    rw [OdaTable.update_size_of_not_appends happ]
    exact h.odaInfo

theorem stageTmcSys_inv {f : State → State} (hf : ∀ s : State, s.Inv → (f s).Inv) {s : State} (h : s.Inv) (g : Group) :
    (stageTmcSys g f s).Inv := by
  have hg : ({ s with prevTmcSysGroup := g } : State).Inv := { h with }
  by_cases hc : g = s.prevTmcSysGroup
  · rw [stageTmcSys_hit hc]; exact hf _ hg
  · rw [stageTmcSys_miss hc]; exact hg

theorem setTmcSys_inv {s : State} (h : s.Inv) (v : TmcSys) : (setTmcSys v s).Inv :=
  h.of_frame (setTmcSys_untouched v s) (setTmcSys_bits v s) (by decide) (by decide)

theorem tmcGate_inv {f : State → State} (hf : ∀ s : State, s.Inv → (f s).Inv) {s : State} (h : s.Inv) (g : Group) :
    (tmcGate g f s).Inv := by
  by_cases hc : s.prevTmcArmed = true ∧ g = s.prevTmcGroup
  · rw [tmcGate_hit hc]; exact hf _ { h with }
  · rw [tmcGate_miss hc]; exact { h with }

theorem publishSingle_inv {s : State} (h : s.Inv) (v : TmcPending) : (publishSingle v s).Inv := by
  have hf := flagsOk_publishTmc h.flags (.inl ⟨rfl, rfl⟩) (decide ((⟨v, Additional.zero⟩ : TmcMsg) ≠ s.tmcMsg))
  simp only [decide_eq_true_eq] at hf
  rw [publishSingle_eq]
  exact { h with
    tmcFields := Additional.zero_ok
    validWidth := hf.validWidth, maskWidth := hf.maskWidth, tmcOneKind := hf.tmcOneKind }

theorem publishMulti_inv {s : State} (h : s.Inv) : (publishMulti s).Inv := by
  have hf := flagsOk_publishTmc h.flags (.inr ⟨rfl, rfl⟩) (decide (s.assembled ≠ s.tmcMsg))
  simp only [decide_eq_true_eq] at hf
  rw [publishMulti_eq]
  exact { h with
    tmcFields := unpack_ok _ _
    validWidth := hf.validWidth, maskWidth := hf.maskWidth, tmcOneKind := hf.tmcOneKind }

theorem publishIfLast_inv {s : State} (h : s.Inv) (gsi : BitVec 2) : (publishIfLast gsi s).Inv := by
  unfold publishIfLast
  split
  · exact publishMulti_inv h
  · exact h

theorem startMulti_inv {s : State} (h : s.Inv) (ci : BitVec 3) {v : TmcPending} (hv : v.length = 0) : (startMulti ci v s).Inv := by
  have h0 : v.length.toNat = 0 := by rw [hv]; rfl
  exact { h with
    tmcWindowCount := ⟨h0.trans_le (Nat.zero_le _), fun h1 => absurd (h1.trans_eq h0) (by decide)⟩
    tmcWindowLow := fun i => by simp [startMulti] }

/-- A window stored keeps the low bits of the buffer at zero (R44, R96). -/
theorem windowLow_set {v : Vector (BitVec 32) 4} (hv : ∀ i : Fin 4, v[i].extractLsb' 0 4 = 0) (k : Nat) (hk : k < 4)
    (window : BitVec 28) (i : Fin 4) : (v.set k (windowWord window) hk)[i].extractLsb' 0 4 = 0 := by
  simp only [Fin.getElem_fin, Vector.getElem_set]
  split
  · exact windowWord_low window
  · exact hv i

theorem storeSecond_inv {s : State} (h : s.Inv) (gsi : BitVec 2) (window : BitVec 28) : (s.storeSecond gsi window).Inv := by
  have hg : 1 + gsi.toNat ≤ 4 := by have := gsi.isLt; omega
  exact { h with
    tmcWindowCount := ⟨by show 1 ≤ 4; decide, fun _ => hg⟩
    tmcWindowLow := windowLow_set h.tmcWindowLow 0 (by decide) window }

theorem storeNext_inv {s : State} (h : s.Inv) {ci : BitVec 3} {gsi : BitVec 2} (ht : s.takesNext ci gsi) (window : BitVec 28) :
    (s.storeNext gsi window ht.1).Inv := by
  obtain ⟨hlt, -, hseq, hgsi⟩ := id ht
  have hcount := h.tmcWindowCount.2
  have hlen : (s.newTmcMsg.length + 1).toNat = s.newTmcMsg.length.toNat + 1 := by simp; omega
  have hmax := s.grpSeqId.isLt
  refine { h with
    tmcWindowCount := ⟨?_, fun _ => ?_⟩
    tmcWindowLow := windowLow_set h.tmcWindowLow _ ht.1 window }
  · show (s.newTmcMsg.length + 1).toNat ≤ 4
    omega
  · show (s.newTmcMsg.length + 1).toNat + gsi.toNat ≤ 4
    omega

theorem secondMulti_inv {s : State} (h : s.Inv) (ci : BitVec 3) (gsi : BitVec 2) (window : BitVec 28) :
    (secondMulti ci gsi window s).Inv := by
  by_cases hc : ci = s.continuityId
  · rw [secondMulti_accept hc]; exact publishIfLast_inv (storeSecond_inv h gsi window) gsi
  · rw [secondMulti_reject hc]; exact h

theorem nextMulti_inv {s : State} (h : s.Inv) (ci : BitVec 3) (gsi : BitVec 2) (window : BitVec 28) :
    (nextMulti ci gsi window s).Inv := by
  by_cases ht : s.takesNext ci gsi
  · rw [nextMulti_accept ht]; exact publishIfLast_inv (storeNext_inv h ht window) gsi
  · rw [nextMulti_reject ht]; exact h

theorem basicTuning_inv {s : State} (h : s.Inv) (ta ms dibit : Bool) (seg : BitVec 2) (c0 c1 : Byte) :
    (basicTuning ta ms dibit seg c0 c1 s).Inv :=
  h.of_frame (basicTuning_untouched ta ms dibit seg c0 c1 s) (basicTuning_bits ta ms dibit seg c0 c1 s) (by decide) (by decide)

/-! ### The rows -/

theorem rowDecoder_inv (i : Instr) (p : GroupBlocks) {s : State} (h : s.Inv) : (rowDecoder i p s).Inv := by
  cases i with
  | g0a => exact addAfPair_inv (basicTuning_inv h _ _ _ _ _ _) _ _
  | g2a => exact radioText_inv h (storeRtA_eq _ _ _ _ _) (le_refl 64) _
  | g2b => exact radioText_inv h (storeRtB_eq _ _ _) (by decide) _
  | g3aTmcSys0 => exact stageTmcSys_inv (fun _ hs => setTmcSys_inv hs _) (updateOda_inv h _ _ _) _
  | g3aTmcSys1 => exact stageTmcSys_inv (fun _ hs => setTmcSys_inv hs _) (updateOda_inv h _ _ _) _
  | g3aTmcSysX => exact stageTmcSys_inv (fun _ hs => hs) (updateOda_inv h _ _ _) _
  | g3a => exact updateOda_inv h _ _ _
  | g8aTi => exact tmcGate_inv (fun _ hs => hs) h _
  | g8aSg => exact tmcGate_inv (fun _ hs => publishSingle_inv hs _) h _
  | g8aMg1 => exact tmcGate_inv (fun _ hs => startMulti_inv hs _ rfl) h _
  | g8aMg2 => exact tmcGate_inv (fun _ hs => secondMulti_inv hs _ _ _) h _
  | g8aMgn => exact tmcGate_inv (fun _ hs => nextMulti_inv hs _ _ _) h _
  | g0b => exact basicTuning_inv h _ _ _ _ _ _
  | g1aEcc => exact h.of_frame (observeEcc_untouched _ s) (observeEcc_bits _ s) (by decide) (by decide)
  | g1aLc => exact h.of_frame (observeLc_untouched _ s) (observeLc_bits _ s) (by decide) (by decide)
  | g4a => exact h.of_frame (observeMjd_untouched _ _ s) (observeMjd_bits _ _ s) (by decide) (by decide)
  | g10a =>
    exact h.of_frame (((togglePtyn_untouched _ s).trans (stagePtyn_untouched _ _ _)).trans (publishPtyn_untouched _))
      (((togglePtyn_bits _ s).trans (stagePtyn_bits _ _ _)).trans (publishPtyn_bits _)) (by decide) (by decide)
  | _ => exact h

/-! ### The blocks -/

theorem FlagsOk.clearOutputs {s : State} (h : FlagsOk s) : FlagsOk s.clearOutputs :=
  ⟨h.validWidth, fun _ _ => BitVec.getLsbD_zero, h.tmcOneKind⟩

theorem clearOutputs_inv {s : State} (h : s.Inv) : s.clearOutputs.Inv := { h with maskWidth := h.flags.clearOutputs.maskWidth }

theorem enterBlock_inv {s : State} (h : s.Inv) (e c : Bool) : (enterBlock e c s).Inv := { clearOutputs_inv h with }

theorem groupError_inv {s : State} (h : s.Inv) : (groupError s).Inv := { h with }

/-- A completed group is counted once in all and once by its type (R126, R147). -/
theorem commonExtractors_storeD_inv {s : State} (h : s.Inv) (r : RawBlock) (g : Group) (tp : Bool) (pty : BitVec 5) :
    (commonExtractors g tp pty (storeD r s).clearOutputs).Inv := by
  have hf : FlagsOk (commonExtractors g tp pty (storeD r s).clearOutputs) :=
    FlagsOk.of_bits (s := s.clearOutputs) h.flags.clearOutputs (commonExtractors_bits g tp pty (storeD r s).clearOutputs) (by decide)
  have hsum : count s.stats.groupCnt = groupTypeSum (s.stats.groupTypeCnt.set g.groupId.toNat
      (count (s.stats.groupTypeCnt[g.groupId.toNat]'g.groupId.isLt)) g.groupId.isLt) := by
    rw [groupTypeSum_count, ← h.groupSum]; rfl
  rw [commonExtractors_eq] at hf ⊢
  exact { h with
    validWidth := hf.validWidth, maskWidth := hf.maskWidth, tmcOneKind := hf.tmcOneKind
    groupSum := hsum }

theorem BlockEffect.inv {s t : State} (h : BlockEffect s t) (hs : s.Inv) : t.Inv := by
  cases h with
  | error e c => exact groupError_inv (enterBlock_inv hs e c)
  | stored c => exact { enterBlock_inv hs false c with }
  | completed c r i p => exact rowDecoder_inv i p (commonExtractors_storeD_inv (enterBlock_inv hs false c) r _ _ _)

/-! ### The step -/

/-- A host operation is no GROUP row, which a step runs only when a block completes it (R105). -/
theorem encodeGroup_decodeOp (op : HostOp) : encodeGroup (decodeOp op) = none := by cases op <;> rfl

theorem exec_decodeOp_inv {op : HostOp} {s t : State} (hs : s.Inv) (h : exec (decodeOp op) s = .next t) : t.Inv := by
  cases exec_effect h with
  | group p hp => rw [encodeGroup_decodeOp] at hp; cases hp
  | block hb => exact hb.inv hs
  | answer v => exact { clearOutputs_inv hs with }
  | destroy => exact { clearOutputs_inv hs with }
  | create b => exact cleared_inv statistics_zero_consistent b _
  | reset keep =>
    refine cleared_inv ?_ _ _
    cases keep
    · exact statistics_zero_consistent
    · exact hs.groupSum

/-- Settles O49: by the cases of the input, and of what the operation taken from it does. -/
theorem stepKeepsTheInvariant : Obligations.StepKeepsTheInvariant := by
  unfold Obligations.StepKeepsTheInvariant
  intro s t hs h
  cases hp : s.pending with
  | nil => rw [step_of_pending_nil hp] at h; cases h; exact clearOutputs_inv hs
  | cons op rest => rw [step_of_pending_cons hp] at h; exact exec_decodeOp_inv (s := { s with pending := rest }) { hs with } h

end Sys2Proof.Machine
end

section
/-! Which bits of `valid_fields` an operation can clear: most operations only set bits; the toggles of the two text flags and the
publication of a TMC message are the exceptions the rule names (R32). -/

namespace Sys2Proof.Machine

/-- No bit of `valid_fields` is cleared. -/
def ValidGrows (s t : State) : Prop := ∀ f : Field, s.isValid f = true → t.isValid f = true

theorem ValidGrows.trans {s t u : State} (h : ValidGrows s t) (h' : ValidGrows t u) : ValidGrows s u := fun f hf => h' f (h f hf)

theorem ValidGrows.of_eq {s t : State} (h : t.validFields = s.validFields) : ValidGrows s t := fun f hf => by
  unfold State.isValid; rw [h]; exact hf

theorem ValidGrows.of_or {s t : State} {m : Mask} (h : t.validFields = s.validFields ||| m) : ValidGrows s t := fun f hf => by
  unfold State.isValid at hf ⊢
  rw [h, BitVec.getLsbD_or, hf, Bool.true_or]

theorem ValidGrows.of_orIf {s t : State} {m : Mask} {c : Prop} [Decidable c]
    (h : t.validFields = if c then s.validFields ||| m else s.validFields) : ValidGrows s t := by
  by_cases hc : c
  · rw [if_pos hc] at h; exact .of_or h
  · rw [if_neg hc] at h; exact .of_eq h

/-! ### Operations that only set bits -/

theorem commonExtractors_grows (g : Group) (tp : Bool) (pty : BitVec 5) (s : State) : ValidGrows s (commonExtractors g tp pty s) := by
  rw [commonExtractors_eq]; exact .of_or rfl

theorem acceptTa_grows (x : Bool) (s : State) : ValidGrows s (acceptTa x s) := by rw [acceptTa_eq]; exact .of_or rfl

theorem acceptMs_grows (x : Bool) (s : State) : ValidGrows s (acceptMs x s) := by rw [acceptMs_eq]; exact .of_or rfl

theorem addPs_grows (pos : Fin 8) (ch : Byte) (s : State) : ValidGrows s (addPs pos ch s) := by rw [addPs_eq]; exact .of_eq rfl

theorem publishPs_grows (s : State) : ValidGrows s (publishPs s) := by rw [publishPs_eq]; exact .of_orIf rfl

theorem stepDi_grows (seg : BitVec 2) (b : Bool) (s : State) : ValidGrows s (stepDi seg b s) :=
  stepDi_cases seg b s (fun _ => .of_eq rfl) (fun _ _ _ => .of_eq rfl) (fun _ _ => .of_or rfl) (fun _ _ => .of_eq rfl)

theorem basicTuning_grows (ta ms dibit : Bool) (seg : BitVec 2) (c0 c1 : Byte) (s : State) :
    ValidGrows s (basicTuning ta ms dibit seg c0 c1 s) :=
  (acceptTa_grows ta s).trans ((acceptMs_grows ms _).trans ((addPs_grows _ c0 _).trans ((addPs_grows _ c1 _).trans
    ((publishPs_grows _).trans (stepDi_grows seg dibit _)))))

theorem addAfPair_grows (b1 b2 : Byte) (s : State) : ValidGrows s (addAfPair b1 b2 s) := by rw [addAfPair_eq]; exact .of_orIf rfl

theorem observeEcc_grows (x : Byte) (s : State) : ValidGrows s (observeEcc x s) := by rw [observeEcc_eq]; exact .of_orIf rfl

theorem observeLc_grows (x : Byte) (s : State) : ValidGrows s (observeLc x s) := by rw [observeLc_eq]; exact .of_orIf rfl

theorem publishRt_grows (len : Nat) (s : State) : ValidGrows s (publishRt len s) := .of_or rfl

theorem takeRtSegment_grows {store : State → State} (hs : ∀ s, ValidGrows s (store s)) (seg : BitVec 4) (full : Nat) (s : State) :
    ValidGrows s (takeRtSegment seg store full s) := by
  unfold takeRtSegment
  split
  · split
    · exact (hs s).trans (publishRt_grows full _)
    · exact hs s
  · exact .of_eq rfl

theorem terminateRt_grows (s : State) : ValidGrows s (terminateRt s) := by
  unfold terminateRt
  split
  · exact .of_eq rfl
  · exact .of_or rfl

theorem reportRt_grows (before s : State) : ValidGrows s (reportRt before s) := by rw [reportRt_eq]; exact .of_eq rfl

theorem updateOda_grows (gid : BitVec 4) (ver : Version) (aid : Word) (s : State) : ValidGrows s (updateOda gid ver aid s) := by
  rw [updateOda_eq]; exact .of_eq rfl

theorem setTmcSys_grows (v : TmcSys) (s : State) : ValidGrows s (setTmcSys v s) := by rw [setTmcSys_eq]; exact .of_or rfl

theorem stageTmcSys_grows {f : State → State} (hf : ∀ s, ValidGrows s (f s)) (g : Group) (s : State) :
    ValidGrows s (stageTmcSys g f s) := by
  by_cases hg : g = s.prevTmcSysGroup
  · rw [stageTmcSys_hit hg]; exact hf { s with prevTmcSysGroup := g }
  · rw [stageTmcSys_miss hg]; exact .of_eq rfl

theorem observeMjd_grows (mjd : BitVec 17) (v : CivilTime) (s : State) : ValidGrows s (observeMjd mjd v s) := by
  rw [observeMjd_eq]; exact .of_orIf rfl

theorem startMulti_grows (ci : BitVec 3) (v : TmcPending) (s : State) : ValidGrows s (startMulti ci v s) := .of_eq rfl

theorem stagePtyn_grows (h : Fin 2) (v : Chars 4) (s : State) : ValidGrows s (stagePtyn h v s) := by
  unfold stagePtyn; split <;> exact .of_eq rfl

theorem publishPtyn_grows (s : State) : ValidGrows s (publishPtyn s) := by rw [publishPtyn_eq]; exact .of_orIf rfl

/-! ### The three events -/

/-- The event the rule names for a field whose bit is cleared (R32). -/
def ClearedByEvent (f : Field) (s t : State) : Prop :=
  (f = .rt ∧ t.rtAbFlag ≠ s.rtAbFlag) ∨ (f = .ptyn ∧ t.ptynAbFlag ≠ s.ptynAbFlag)
    ∨ (f = .tmcSg ∧ t.isValid .tmcMg = true) ∨ (f = .tmcMg ∧ t.isValid .tmcSg = true)

/-- A valid bit is kept, or its event happened. -/
def ValidSafe (s t : State) : Prop := ∀ f : Field, s.isValid f = true → t.isValid f = true ∨ ClearedByEvent f s t

theorem ValidGrows.safe {s t : State} (h : ValidGrows s t) : ValidSafe s t := fun f hf => .inl (h f hf)

/-- An event seen from an earlier state with the same two flags and fewer bits. -/
theorem ValidSafe.after_grows {s s' t : State} (h : ValidSafe s' t) (hg : ValidGrows s s') (hrt : s'.rtAbFlag = s.rtAbFlag)
    (hptyn : s'.ptynAbFlag = s.ptynAbFlag) : ValidSafe s t := fun f hf => by
  have := h f (hg f hf)
  unfold ClearedByEvent at this ⊢
  rwa [hrt, hptyn] at this

/-- A field whose bit an operation does not move. -/
theorem BitsKept.isValid {fs : List Field} {s t : State} (h : BitsKept fs s t) {f : Field} (hf : f ∉ fs) : t.isValid f = s.isValid f :=
  (h f.pos fun _ m e => hf (Field.pos_inj e ▸ m)).1

theorem radioText_flag (ab : Bool) {store : State → State} (hs : ∀ s, Untouched [.newRt, .nextRtSegment] s (store s))
    (seg : BitVec 4) (full : Nat) (s : State) : (radioText ab seg store full s).rtAbFlag = ab := by
  have h := ((takeRtSegment_untouched hs seg full (toggleRt ab s)).trans (terminateRt_untouched _)).trans (reportRt_untouched s _)
  have hflag : (toggleRt ab s).rtAbFlag = (radioText ab seg store full s).rtAbFlag := h .rtAbFlag (by decide)
  rw [← hflag, toggleRt_eq]

theorem radioText_safe (ab : Bool) {store : State → State} (hs : ∀ s, Untouched [.newRt, .nextRtSegment] s (store s))
    (hb : ∀ s, BitsKept [.rt] s (store s)) (hv : ∀ s, ValidGrows s (store s)) (seg : BitVec 4) (full : Nat) (s : State) :
    ValidSafe s (radioText ab seg store full s) := by
  by_cases hab : ab = s.rtAbFlag
  · unfold radioText
    rw [toggleRt_same hab]
    exact ((takeRtSegment_grows hv seg full s).trans ((terminateRt_grows _).trans (reportRt_grows s _))).safe
  · intro f hf
    by_cases hrt : f = .rt
    · exact .inr (.inl ⟨hrt, by rw [radioText_flag ab hs]; exact hab⟩)
    · left
      rw [(radioText_bits ab hb seg full s).isValid (by simpa using hrt)]
      exact hf

theorem togglePtyn_same {ab : Bool} {s : State} (h : ab = s.ptynAbFlag) : togglePtyn ab s = s := if_pos h

theorem togglePtyn_flag (ab : Bool) (s : State) : (togglePtyn ab s).ptynAbFlag = ab := by rw [togglePtyn_eq]

theorem ptyn_safe (ab : Bool) (h : Fin 2) (v : Chars 4) (s : State) : ValidSafe s (publishPtyn (stagePtyn h v (togglePtyn ab s))) := by
  by_cases hab : ab = s.ptynAbFlag
  · rw [togglePtyn_same hab]
    exact ((stagePtyn_grows h v s).trans (publishPtyn_grows _)).safe
  · have hu := (stagePtyn_untouched h v (togglePtyn ab s)).trans (publishPtyn_untouched _)
    have hflag : (togglePtyn ab s).ptynAbFlag = (publishPtyn (stagePtyn h v (togglePtyn ab s))).ptynAbFlag := hu .ptynAbFlag (by decide)
    have hb := ((togglePtyn_bits ab s).trans (stagePtyn_bits h v _)).trans (publishPtyn_bits _)
    intro f hf
    by_cases hp : f = .ptyn
    · exact .inr (.inr (.inl ⟨hp, by rw [← hflag, togglePtyn_flag]; exact hab⟩))
    · left
      rw [hb.isValid (by simpa using hp)]
      exact hf

/-- A field other than the retracted kind keeps its bit when a TMC message is published. -/
theorem isValid_publishTmc {v : Mask} {f g k : Field} (hk : k ≠ g) (h : v.getLsbD k.pos = true) :
    ((v ||| f.mask) &&& ~~~g.mask).getLsbD k.pos = true := by
  rw [clear_mask_other fun e => hk (Field.pos_inj e).symm, getLsbD_or_mask, h, Bool.true_or]

/-- The published kind is valid. -/
theorem isValid_published (v : Mask) {f g : Field} (h : f ≠ g) : ((v ||| f.mask) &&& ~~~g.mask).getLsbD f.pos = true := by
  rw [clear_mask_other fun e => h (Field.pos_inj e).symm, getLsbD_or_mask, decide_eq_true rfl, Bool.or_true]

theorem publishSingle_safe (v : TmcPending) (s : State) : ValidSafe s (publishSingle v s) := by
  rw [publishSingle_eq]
  intro f hf
  by_cases hm : f = .tmcMg
  · exact .inr (.inr (.inr (.inr ⟨hm, isValid_published s.validFields (by decide)⟩)))
  · exact .inl (isValid_publishTmc hm hf)

theorem publishMulti_safe (s : State) : ValidSafe s (publishMulti s) := by
  rw [publishMulti_eq]
  intro f hf
  by_cases hm : f = .tmcSg
  · exact .inr (.inr (.inr (.inl ⟨hm, isValid_published s.validFields (by decide)⟩)))
  · exact .inl (isValid_publishTmc hm hf)

theorem publishIfLast_safe (gsi : BitVec 2) (s : State) : ValidSafe s (publishIfLast gsi s) := by
  unfold publishIfLast
  split
  · exact publishMulti_safe s
  · exact ValidGrows.safe (.of_eq rfl)

theorem secondMulti_safe (ci : BitVec 3) (gsi : BitVec 2) (window : BitVec 28) (s : State) :
    ValidSafe s (secondMulti ci gsi window s) := by
  by_cases hc : ci = s.continuityId
  · rw [secondMulti_accept hc]
    exact (publishIfLast_safe gsi (s.storeSecond gsi window)).after_grows (.of_eq rfl) rfl rfl
  · rw [secondMulti_reject hc]; exact ValidGrows.safe (.of_eq rfl)

theorem nextMulti_safe (ci : BitVec 3) (gsi : BitVec 2) (window : BitVec 28) (s : State) : ValidSafe s (nextMulti ci gsi window s) := by
  by_cases ht : s.takesNext ci gsi
  · rw [nextMulti_accept ht]
    exact (publishIfLast_safe gsi (s.storeNext gsi window ht.1)).after_grows (.of_eq rfl) rfl rfl
  · rw [nextMulti_reject ht]; exact ValidGrows.safe (.of_eq rfl)

theorem tmcGate_safe {f : State → State} (hf : ∀ s, ValidSafe s (f s)) (g : Group) (s : State) : ValidSafe s (tmcGate g f s) := by
  by_cases hg : s.prevTmcArmed = true ∧ g = s.prevTmcGroup
  · rw [tmcGate_hit hg]; exact (hf _).after_grows (.of_eq rfl) rfl rfl
  · rw [tmcGate_miss hg]; exact ValidGrows.safe (.of_eq rfl)

/-! ### The instructions -/

theorem rowDecoder_safe (i : Instr) (p : GroupBlocks) (s : State) : ValidSafe s (rowDecoder i p s) := by
  cases i with
  | g0a => exact ((basicTuning_grows _ _ _ _ _ _ s).trans (addAfPair_grows _ _ _)).safe
  | g0b => exact (basicTuning_grows _ _ _ _ _ _ s).safe
  | g1aEcc => exact (observeEcc_grows _ s).safe
  | g1aLc => exact (observeLc_grows _ s).safe
  | g2a => exact radioText_safe _ (storeRtA_untouched _ _ _ _ _) (storeRtA_bits _ _ _ _ _) (fun _ => .of_eq rfl) _ _ s
  | g2b => exact radioText_safe _ (storeRtB_untouched _ _ _) (storeRtB_bits _ _ _) (fun _ => .of_eq rfl) _ _ s
  | g3aTmcSys0 => exact ((updateOda_grows _ _ _ s).trans (stageTmcSys_grows (fun s => setTmcSys_grows _ s) _ _)).safe
  | g3aTmcSys1 => exact ((updateOda_grows _ _ _ s).trans (stageTmcSys_grows (fun s => setTmcSys_grows _ s) _ _)).safe
  | g3aTmcSysX => exact ((updateOda_grows _ _ _ s).trans (stageTmcSys_grows (fun _ => .of_eq rfl) _ _)).safe
  | g3a => exact (updateOda_grows _ _ _ s).safe
  | g4a => exact (observeMjd_grows _ _ s).safe
  | g8aTi => exact tmcGate_safe (fun _ => ValidGrows.safe (.of_eq rfl)) _ s
  | g8aSg => exact tmcGate_safe (publishSingle_safe _) _ s
  | g8aMg1 => exact tmcGate_safe (fun s => (startMulti_grows _ _ s).safe) _ s
  | g8aMg2 => exact tmcGate_safe (secondMulti_safe _ _ _) _ s
  | g8aMgn => exact tmcGate_safe (nextMulti_safe _ _ _) _ s
  | g10a => exact ptyn_safe _ _ _ s
  | _ => exact ValidGrows.safe (.of_eq rfl)

theorem afterGroup_safe (i : Instr) (p : GroupBlocks) (s : State) : ValidSafe s (afterGroup i p s) := by
  have hu := commonExtractors_untouched (Group.ofBlocks p) (p.b.getLsbD 10) (p.b.extractLsb' 5 5) s.clearOutputs
  exact (rowDecoder_safe i p _).after_grows (commonExtractors_grows _ _ _ s.clearOutputs) (hu .rtAbFlag (by decide)).symm
    (hu .ptynAbFlag (by decide)).symm

theorem BlockEffect.safe {s t : State} (h : BlockEffect s t) : ValidSafe s t := by
  cases h with
  | error => exact ValidGrows.safe (.of_eq rfl)
  | stored => exact ValidGrows.safe (.of_eq rfl)
  | completed c r i p => exact (afterGroup_safe i p _).after_grows (.of_eq rfl) rfl rfl

/-- Settles O51: by the effects of an instruction; only the radio text, the name and the TMC messages can lose a bit. -/
theorem validBitsAreClearedOnlyByNamedEvents : Obligations.ValidBitsAreClearedOnlyByNamedEvents := by
  unfold Obligations.ValidBitsAreClearedOnlyByNamedEvents
  intro i s t f h hc hr hs ht
  have hsafe : ValidSafe s t := by
    cases exec_effect h with
    | group p => exact afterGroup_safe i p s
    | block hb => exact hb.safe
    | answer => exact ValidGrows.safe (.of_eq rfl)
    | destroy => exact ValidGrows.safe (.of_eq rfl)
    | create b hi => exact absurd hi (hc b)
    | reset b hi => exact absurd hi (hr b)
  exact (hsafe f hs).resolve_left (by rw [ht]; decide)

end Sys2Proof.Machine
end

section
/-! What the mask says: each operation raises the bit of a field iff it changes the field's public value (R46 (5), R151). Operations on
different fields compose; the two TMC bits, which stand for one value, are kept apart. -/

namespace Sys2Proof.Machine

/-! ### The public values and the registers that hold them (R31) -/

/-- The mask bits whose public value a register is part of. -/
def Component.fields : Component → List Field
  | .pi => [.pi] | .pty => [.pty] | .tp => [.tp] | .ta => [.ta] | .ms => [.ms] | .di => [.di] | .ecc => [.ecc] | .lc => [.lc]
  | .ps => [.ps] | .rt | .rtLength | .rtAbFlag => [.rt] | .ptyn | .ptynAbFlag => [.ptyn] | .rdsAf => [.af] | .rdsOda => [.oda]
  | .time => [.time] | .tmcSys => [.tmcSys] | .tmcMsg => [.tmcSg, .tmcMg]
  | _ => []

theorem Field.sameValue_of_untouched {cs : List Component} {s t : State} (hu : Untouched cs s t) {f : Field}
    (h : ∀ c ∈ cs, f ∉ c.fields) : f.sameValue s t := by
  have same (c : Component) (hc : f ∈ c.fields) : c.same s t := hu c fun m => h c m hc
  cases f with
  | pi => exact same .pi (by decide)
  | pty => exact same .pty (by decide)
  | ps => exact same .ps (by decide)
  | rt => exact ⟨same .rt (by decide), same .rtLength (by decide), same .rtAbFlag (by decide)⟩
  | tp => exact same .tp (by decide)
  | ta => exact same .ta (by decide)
  | ms => exact same .ms (by decide)
  | di => exact same .di (by decide)
  | af =>
    have ha : s.rdsAf = t.rdsAf := same .rdsAf (by decide)
    exact ⟨by rw [ha], by rw [ha]⟩
  | ecc => exact same .ecc (by decide)
  | lc => exact same .lc (by decide)
  | time => exact same .time (by decide)
  | tmcSg => exact same .tmcMsg (by decide)
  | tmcMg => exact same .tmcMsg (by decide)
  | tmcSys => exact same .tmcSys (by decide)
  | ptyn => exact ⟨same .ptyn (by decide), same .ptynAbFlag (by decide)⟩
  | oda =>
    have ho : s.rdsOda = t.rdsOda := same .rdsOda (by decide)
    show s.rdsOda.rows = t.rdsOda.rows
    rw [ho]

theorem Field.sameValue_symm {f : Field} {s t : State} (h : f.sameValue s t) : f.sameValue t s := by
  cases f with
  | rt => exact ⟨h.1.symm, h.2.1.symm, h.2.2.symm⟩
  | af => exact ⟨h.1.symm, h.2.symm⟩
  | ptyn => exact ⟨h.1.symm, h.2.symm⟩
  | _ => exact Eq.symm h

theorem Field.sameValue_trans {f : Field} {s t u : State} (h : f.sameValue s t) (h' : f.sameValue t u) : f.sameValue s u := by
  cases f with
  | rt => exact ⟨h.1.trans h'.1, h.2.1.trans h'.2.1, h.2.2.trans h'.2.2⟩
  | af => exact ⟨h.1.trans h'.1, h.2.trans h'.2⟩
  | ptyn => exact ⟨h.1.trans h'.1, h.2.trans h'.2⟩
  | _ => exact Eq.trans h h'

/-! ### Reports and their composition -/

/-- The bit of the field is raised by the change of its public value, and by nothing else. -/
def Reports (f : Field) (s t : State) : Prop := t.raised f = true ↔ s.raised f = true ∨ ¬f.sameValue s t

/-- Neither the bit nor the public value of the field moves. -/
def Keeps (f : Field) (s t : State) : Prop := t.raised f = s.raised f ∧ f.sameValue s t

theorem Keeps.reports {f : Field} {s t : State} (h : Keeps f s t) : Reports f s t := by
  unfold Reports
  rw [h.1]
  exact ⟨.inl, fun h' => h'.resolve_right fun hn => hn h.2⟩

theorem Keeps.trans {f : Field} {s t u : State} (h : Keeps f s t) (h' : Keeps f t u) : Keeps f s u :=
  ⟨h'.1.trans h.1, Field.sameValue_trans h.2 h'.2⟩

theorem Reports.trans_keeps {f : Field} {s t u : State} (h : Reports f s t) (h' : Keeps f t u) : Reports f s u := by
  have hv : f.sameValue s u ↔ f.sameValue s t :=
    ⟨fun hu => Field.sameValue_trans hu (Field.sameValue_symm h'.2), fun ht => Field.sameValue_trans ht h'.2⟩
  unfold Reports at h ⊢
  rw [h'.1, hv]
  exact h

theorem Keeps.trans_reports {f : Field} {s t u : State} (h : Keeps f s t) (h' : Reports f t u) : Reports f s u := by
  have hv : f.sameValue s u ↔ f.sameValue t u :=
    ⟨fun hu => Field.sameValue_trans (Field.sameValue_symm h.2) hu, fun ht => Field.sameValue_trans h.2 ht⟩
  unfold Reports at h' ⊢
  rw [hv, ← h.1]
  exact h'

/-- A bit raised under a comparison of the public values. -/
theorem Reports.of_orIf {f : Field} {s t : State} {c : Prop} [Decidable c]
    (hm : t.updMask = if c then s.updMask ||| f.mask else s.updMask) (hv : c ↔ ¬f.sameValue s t) : Reports f s t := by
  unfold Reports State.raised
  rw [hm, ← hv]
  split
  · rename_i hc
    rw [getLsbD_or_mask]
    simp [hc]
  · rename_i hc
    simp [hc]

theorem Reports.of_eq {f : Field} {s t : State} (hm : t.updMask = s.updMask) (hv : f.sameValue s t) : Reports f s t :=
  Keeps.reports ⟨by unfold State.raised; rw [hm], hv⟩

theorem Reports.of_change {f : Field} {s t : State} (hr : t.raised f = true) (hv : ¬f.sameValue s t) : Reports f s t :=
  ⟨fun _ => .inr hv, fun _ => hr⟩

/-- A bit that is or-ed into the mask later stays raised. -/
theorem raised_of_orIf {f g : Field} {s t : State} {c : Prop} [Decidable c]
    (hm : t.updMask = if c then s.updMask ||| g.mask else s.updMask) (h : s.raised f = true) : t.raised f = true := by
  unfold State.raised at h ⊢
  rw [hm]
  split
  · rw [getLsbD_or_mask, h, Bool.true_or]
  · exact h

/-- The field is none of the two kinds of TMC message, which share a value. -/
def Field.isTmc (f : Field) : Bool := f == .tmcSg || f == .tmcMg

/-- Of the fields that are no TMC kind, those listed are reported and the others are kept. -/
def Sound (fs : List Field) (s t : State) : Prop :=
  ∀ f : Field, f.isTmc = false → (f ∈ fs → Reports f s t) ∧ (f ∉ fs → Keeps f s t)

theorem Sound.reports {fs : List Field} {s t : State} (h : Sound fs s t) {f : Field} (hf : f.isTmc = false) : Reports f s t := by
  by_cases hm : f ∈ fs
  · exact (h f hf).1 hm
  · exact ((h f hf).2 hm).reports

theorem Sound.mono {fs fs' : List Field} {s t : State} (h : Sound fs s t) (hs : ∀ f ∈ fs, f ∈ fs') : Sound fs' s t := fun f hf =>
  ⟨fun _ => h.reports hf, fun hm => (h f hf).2 fun m => hm (hs f m)⟩

/-- Operations on different fields, one after the other. -/
theorem Sound.trans {fs fs' : List Field} {s t u : State} (h : Sound fs s t) (h' : Sound fs' t u) (hd : ∀ f ∈ fs, f ∉ fs') :
    Sound (fs ++ fs') s u := fun f hf => by
  rw [List.mem_append]
  by_cases hm : f ∈ fs
  · exact ⟨fun _ => ((h f hf).1 hm).trans_keeps ((h' f hf).2 (hd f hm)), fun hn => absurd (.inl hm) hn⟩
  · have hk := (h f hf).2 hm
    exact ⟨fun hm' => hk.trans_reports ((h' f hf).1 (hm'.resolve_left hm)), fun hn => hk.trans ((h' f hf).2 fun m => hn (.inr m))⟩

/-- An operation that touches the registers and the bits of some fields only, and reports those. -/
theorem Sound.of_frames {cs : List Component} {fs : List Field} {s t : State} (hu : Untouched cs s t) (hb : BitsKept fs s t)
    (hcs : ∀ c ∈ cs, ∀ f ∈ c.fields, f ∈ fs) (hr : ∀ f ∈ fs, f.isTmc = false → Reports f s t) : Sound fs s t := fun f hf =>
  ⟨fun hm => hr f hm hf, fun hm =>
    ⟨(hb f.pos fun _ m e => hm (Field.pos_inj e ▸ m)).2, Field.sameValue_of_untouched hu fun c hc m => hm (hcs c hc f m)⟩⟩

theorem Sound.of_silent {cs : List Component} {s t : State} (hu : Untouched cs s t) (hb : BitsKept [] s t)
    (hcs : ∀ c ∈ cs, ∀ f ∈ c.fields, f ∈ ([] : List Field)) : Sound [] s t :=
  Sound.of_frames hu hb hcs fun _ hm => absurd hm List.not_mem_nil

theorem Sound.of_single {cs : List Component} {g : Field} {s t : State} (hu : Untouched cs s t) (hb : BitsKept [g] s t)
    (hcs : ∀ c ∈ cs, ∀ f ∈ c.fields, f ∈ [g]) (hr : Reports g s t) : Sound [g] s t :=
  Sound.of_frames hu hb hcs fun _ hm _ => List.mem_singleton.mp hm ▸ hr

theorem Sound.of_tmc {cs : List Component} {s t : State} (hu : Untouched cs s t) (hb : BitsKept [.tmcSg, .tmcMg] s t)
    (hcs : ∀ c ∈ cs, ∀ f ∈ c.fields, f ∈ [Field.tmcSg, .tmcMg]) : Sound [.tmcSg, .tmcMg] s t :=
  Sound.of_frames hu hb hcs fun f hm hf => by
    have : f.isTmc = true := (by decide : ∀ g ∈ [Field.tmcSg, .tmcMg], g.isTmc = true) f hm
    rw [hf] at this; cases this

theorem Sound.refl (s : State) : Sound [] s s := Sound.of_silent (Untouched.refl [] s) (BitsKept.refl [] s) (by decide)

/-! ### The common extractors -/

/-- A candidate is accepted iff the public value changes (R141). -/
theorem accepts_iff_changes {w : Nat} (pub stg x : BitVec w) :
    accepts pub stg x = true ↔ ¬pub = if accepts pub stg x = true then x else pub := by
  by_cases h : accepts pub stg x = true
  · have hne : x ≠ pub := by simpa using (Bool.and_eq_true_iff.mp h).2
    simp [h, hne.symm]
  · simp [h]

theorem getLsbD_maskIf (c : Bool) (f : Field) (k : Nat) :
    (if c = true then f.mask else 0).getLsbD k = (c && decide (f.pos = k)) := by
  cases c
  · simp
  · simp [f.getLsbD_mask]

theorem getLsbD_commonMask (g : Group) (tp : Bool) (pty : BitVec 5) (s : State) (k : Nat) :
    (commonMask g tp pty s).getLsbD k = (accepts s.pi s.newPi g.pi && decide (Field.pi.pos = k) || (tp != s.tp) && decide (Field.tp.pos = k)
      || accepts s.pty s.newPty pty && decide (Field.pty.pos = k)) := by
  unfold commonMask
  rw [BitVec.getLsbD_or, BitVec.getLsbD_or, getLsbD_maskIf, getLsbD_maskIf, getLsbD_maskIf]

theorem commonExtractors_raised (g : Group) (tp : Bool) (pty : BitVec 5) (s : State) (f : Field) :
    (commonExtractors g tp pty s).raised f = (s.raised f || (commonMask g tp pty s).getLsbD f.pos) := by
  rw [commonExtractors_eq]; exact BitVec.getLsbD_or

theorem commonExtractors_reports_pi (g : Group) (tp : Bool) (pty : BitVec 5) (s : State) :
    Reports .pi s (commonExtractors g tp pty s) := by
  have hm : (commonMask g tp pty s).getLsbD Field.pi.pos = accepts s.pi s.newPi g.pi := by
    rw [getLsbD_commonMask]; simp [Field.pos]
  unfold Reports
  rw [commonExtractors_raised, hm, Bool.or_eq_true, commonExtractors_eq]
  exact or_congr_right (accepts_iff_changes _ _ _)

theorem commonExtractors_reports_pty (g : Group) (tp : Bool) (pty : BitVec 5) (s : State) :
    Reports .pty s (commonExtractors g tp pty s) := by
  have hm : (commonMask g tp pty s).getLsbD Field.pty.pos = accepts s.pty s.newPty pty := by
    rw [getLsbD_commonMask]; simp [Field.pos]
  unfold Reports
  rw [commonExtractors_raised, hm, Bool.or_eq_true, commonExtractors_eq]
  exact or_congr_right (accepts_iff_changes _ _ _)

/-- A flag differs from the new one iff it changes (R151). -/
theorem bne_iff_changes {α : Type} [BEq α] [LawfulBEq α] (new old : α) : (new != old) = true ↔ ¬old = new := by
  rw [bne_iff_ne, ne_comm]

theorem commonExtractors_reports_tp (g : Group) (tp : Bool) (pty : BitVec 5) (s : State) :
    Reports .tp s (commonExtractors g tp pty s) := by
  have hm : (commonMask g tp pty s).getLsbD Field.tp.pos = (tp != s.tp) := by
    rw [getLsbD_commonMask]; simp [Field.pos]
  unfold Reports
  rw [commonExtractors_raised, hm, Bool.or_eq_true, commonExtractors_eq]
  exact or_congr_right (bne_iff_changes tp s.tp)

theorem commonExtractors_sound (g : Group) (tp : Bool) (pty : BitVec 5) (s : State) :
    Sound commonBits s (commonExtractors g tp pty s) := by
  refine Sound.of_frames (commonExtractors_untouched g tp pty s) (commonExtractors_bits g tp pty s) (by decide) fun f hf _ => ?_
  rcases List.mem_cons.mp hf with rfl | hf
  · exact commonExtractors_reports_pi g tp pty s
  rcases List.mem_cons.mp hf with rfl | hf
  · exact commonExtractors_reports_pty g tp pty s
  · rw [List.mem_singleton.mp hf]; exact commonExtractors_reports_tp g tp pty s

/-! ### Groups 0 and 1 -/

theorem acceptTa_sound (x : Bool) (s : State) : Sound [.ta] s (acceptTa x s) :=
  Sound.of_single (acceptTa_untouched x s) (acceptTa_bits x s) (by decide)
    (by rw [acceptTa_eq]; exact Reports.of_orIf rfl (bne_iff_changes x s.ta))

theorem acceptMs_sound (x : Bool) (s : State) : Sound [.ms] s (acceptMs x s) :=
  Sound.of_single (acceptMs_untouched x s) (acceptMs_bits x s) (by decide)
    (by rw [acceptMs_eq]; exact Reports.of_orIf rfl (bne_iff_changes x s.ms))

theorem addPs_sound (pos : Fin 8) (ch : Byte) (s : State) : Sound [] s (addPs pos ch s) :=
  Sound.of_silent (addPs_untouched pos ch s) (addPs_bits pos ch s) (by decide)

/-- A value published under a condition changes iff the condition holds and it differs (R151). -/
theorem ite_changes_iff {α : Type} (c : Prop) [Decidable c] (new old : α) : c ∧ new ≠ old ↔ ¬old = if c then new else old := by
  by_cases h : c
  · simp [h, ne_comm]
  · simp [h]

theorem publishPs_sound (s : State) : Sound [.ps] s (publishPs s) :=
  Sound.of_single (publishPs_untouched s) (publishPs_bits s) (by decide)
    (by rw [publishPs_eq]; exact Reports.of_orIf rfl (ite_changes_iff _ _ _))

theorem stepDi_sound (seg : BitVec 2) (b : Bool) (s : State) : Sound [.di] s (stepDi seg b s) :=
  Sound.of_single (stepDi_untouched seg b s) (stepDi_bits seg b s) (by decide)
    (stepDi_cases seg b s (fun _ => .of_eq rfl rfl) (fun _ _ _ => .of_eq rfl rfl)
      (fun _ _ => .of_orIf rfl (bne_iff_changes _ s.di)) (fun _ _ => .of_eq rfl rfl))

theorem basicTuning_sound (ta ms dibit : Bool) (seg : BitVec 2) (c0 c1 : Byte) (s : State) :
    Sound [.ta, .ms, .ps, .di] s (basicTuning ta ms dibit seg c0 c1 s) := by
  have hps := (addPs_sound (psPos seg false) c0 (acceptMs ms (acceptTa ta s))).trans (addPs_sound (psPos seg true) c1 _) (by decide)
  exact ((((acceptTa_sound ta s).trans (acceptMs_sound ms _) (by decide)).trans hps (by decide)).trans (publishPs_sound _)
    (by decide)).trans (stepDi_sound seg dibit _) (by decide)

theorem AfSet.length_entries {a : AfSet} (h : a.Ok) : a.entries.length = a.size.toNat := by
  rw [AfSet.entries, List.length_take, Vector.length_toList]
  exact Nat.min_eq_left (h.1.1.trans h.1.2)

/-- The comparison of R168 compares the announced count and the frequencies held. -/
theorem AfSet.same_iff {a b : AfSet} (ha : a.Ok) (hb : b.Ok) :
    a.same b = true ↔ b.announcedAf = a.announcedAf ∧ b.entries = a.entries := by
  unfold AfSet.same
  simp only [Bool.and_eq_true, beq_iff_eq, decide_eq_true_eq]
  constructor
  · rintro ⟨⟨hann, hsize⟩, hall⟩
    refine ⟨hann.symm, List.ext_getElem (by rw [AfSet.length_entries ha, AfSet.length_entries hb, hsize]) fun k hk hk' => ?_⟩
    rw [AfSet.length_entries ha] at hk'
    have hle := ha.1
    have := hall ⟨k, by omega⟩ hk'
    simpa [AfSet.entries] using this.symm
  · rintro ⟨hann, hent⟩
    have hsize : a.size = b.size := BitVec.eq_of_toNat_eq (by rw [← AfSet.length_entries ha, ← AfSet.length_entries hb, hent])
    refine ⟨⟨hann.symm, hsize⟩, fun i hi => ?_⟩
    have hget := congrArg (·[i.val]?) hent
    simpa [AfSet.entries, hi, ← hsize] using hget.symm

theorem AfSet.changes_iff {a b : AfSet} (ha : a.Ok) (hb : b.Ok) :
    (!a.same b) = true ↔ ¬(b.announcedAf = a.announcedAf ∧ b.entries = a.entries) := by
  rw [← AfSet.same_iff ha hb, Bool.not_eq_true', Bool.not_eq_true]

theorem addAfPair_sound {s : State} (h : s.Inv) (b1 b2 : Byte) : Sound [.af] s (addAfPair b1 b2 s) := by
  have ha : s.rdsAf.Ok := ⟨h.afBound, h.afNodup⟩
  refine Sound.of_single (addAfPair_untouched b1 b2 s) (addAfPair_bits b1 b2 s) (by decide) ?_
  rw [addAfPair_eq]
  exact Reports.of_orIf rfl (AfSet.changes_iff (ha.pair b1 b2) ha)

theorem observeEcc_sound (x : Byte) (s : State) : Sound [.ecc] s (observeEcc x s) :=
  Sound.of_single (observeEcc_untouched x s) (observeEcc_bits x s) (by decide)
    (by rw [observeEcc_eq]; exact Reports.of_orIf rfl (accepts_iff_changes _ _ _))

theorem observeLc_sound (x : Byte) (s : State) : Sound [.lc] s (observeLc x s) :=
  Sound.of_single (observeLc_untouched x s) (observeLc_bits x s) (by decide)
    (by rw [observeLc_eq]; exact Reports.of_orIf rfl (accepts_iff_changes _ _ _))

/-! ### Group 2 -/

theorem toggleRt_raised {ab : Bool} {s : State} (h : ab ≠ s.rtAbFlag) : (toggleRt ab s).raised .rt = true := by
  rw [toggleRt_eq]
  unfold State.raised
  simp only [if_neg h]
  rw [getLsbD_or_mask, decide_eq_true rfl, Bool.or_true]

theorem publishRt_updMask (len : Nat) (s : State) : (publishRt len s).updMask = s.updMask := by rw [publishRt_eq]

theorem takeRtSegment_updMask {store : State → State} (hs : ∀ s, (store s).updMask = s.updMask) (seg : BitVec 4) (full : Nat)
    (s : State) : (takeRtSegment seg store full s).updMask = s.updMask := by
  unfold takeRtSegment
  split
  · split
    · exact (publishRt_updMask full _).trans (hs s)
    · exact hs s
  · rfl

theorem terminateRt_updMask (s : State) : (terminateRt s).updMask = s.updMask := by
  unfold terminateRt
  split
  · rfl
  · exact publishRt_updMask _ _

theorem radioText_reports (ab : Bool) {store : State → State} (hu : ∀ s, Untouched [.newRt, .nextRtSegment] s (store s))
    (seg : BitVec 4) (full : Nat) (s : State) : Reports .rt s (radioText ab seg store full s) := by
  have hflag := radioText_flag ab hu seg full s
  have hmask : (terminateRt (takeRtSegment seg store full (toggleRt ab s))).updMask = (toggleRt ab s).updMask := by
    rw [terminateRt_updMask, takeRtSegment_updMask fun s => (hu s .updMask (by decide)).symm]
  by_cases hab : ab = s.rtAbFlag
  · unfold radioText at hflag ⊢
    rw [toggleRt_same hab] at hflag hmask ⊢
    rw [reportRt_eq] at hflag ⊢
    refine Reports.of_orIf (by rw [hmask]) ?_
    show _ ↔ ¬(s.rt = _ ∧ s.rtLength = _ ∧ s.rtAbFlag = _)
    rw [hflag, ← hab]
    simp only [and_true, not_and_or, ne_comm, ne_eq]
  · refine Reports.of_change ?_ fun h => hab (hflag.symm.trans h.2.2.symm)
    have hr : (terminateRt (takeRtSegment seg store full (toggleRt ab s))).raised .rt = true := by
      unfold State.raised; rw [hmask]; exact toggleRt_raised hab
    unfold radioText
    rw [reportRt_eq]
    exact raised_of_orIf (g := .rt) rfl hr

theorem radioText_sound (ab : Bool) {store : State → State} (hu : ∀ s, Untouched [.newRt, .nextRtSegment] s (store s))
    (hb : ∀ s, BitsKept [.rt] s (store s)) (seg : BitVec 4) (full : Nat) (s : State) :
    Sound [.rt] s (radioText ab seg store full s) :=
  Sound.of_single (radioText_untouched ab hu seg full s) (radioText_bits ab hb seg full s) (by decide) (radioText_reports ab hu seg full s)

/-! ### Groups 3 and 4 -/

/-- The rows change iff a row is appended or an AID is replaced by a different one (R221). -/
theorem OdaTable.changes_iff (t : OdaTable) (gid : BitVec 4) (ver : Version) (aid : Word) :
    (t.appends gid ver || t.replaces gid ver aid) = true ↔ ¬t.rows = (t.update gid ver aid).rows := by
  unfold OdaTable.appends OdaTable.replaces OdaTable.update
  cases hf : t.find gid ver with
  | some i =>
    obtain ⟨hi, -⟩ := OdaTable.find_some hf
    have hget := OdaTable.getElem_rows hi
    obtain ⟨hl, hrow⟩ := List.getElem?_eq_some_iff.mp hget
    rw [Option.isNone_some, Bool.false_and, Bool.false_or]
    dsimp only
    rw [OdaTable.rows_replace, bne_iff_ne, not_iff_not]
    constructor
    · rintro rfl
      exact ((congrArg _ hrow.symm).trans (List.set_getElem_self hl)).symm
    · intro h
      rw [h, List.getElem?_set_self hl] at hget
      exact (congrArg OdaRow.aid (Option.some.inj hget)).symm
  | none =>
    by_cases hlt : t.size < 18
    · simp [hlt, OdaTable.rows_append]
    · simp [hlt]

theorem updateOda_sound (gid : BitVec 4) (ver : Version) (aid : Word) (s : State) : Sound [.oda] s (updateOda gid ver aid s) :=
  Sound.of_single (updateOda_untouched gid ver aid s) (updateOda_bits gid ver aid s) (by decide)
    (by rw [updateOda_eq]; exact Reports.of_orIf rfl (OdaTable.changes_iff s.rdsOda gid ver aid))

theorem setTmcSys_sound (v : TmcSys) (s : State) : Sound [.tmcSys] s (setTmcSys v s) :=
  Sound.of_single (setTmcSys_untouched v s) (setTmcSys_bits v s) (by decide)
    (by rw [setTmcSys_eq]; exact Reports.of_orIf rfl ne_comm)

theorem stageTmcSys_sound {fs : List Field} {f : State → State} (hf : ∀ s, Sound fs s (f s)) (g : Group) (s : State) :
    Sound fs s (stageTmcSys g f s) := by
  have hstage : Sound [] s (stageTmcSys g id s) :=
    Sound.of_silent (stageTmcSys_untouched (Untouched.refl []) g s) (stageTmcSys_bits (BitsKept.refl []) g s) (by decide)
  by_cases hg : g = s.prevTmcSysGroup
  · rw [stageTmcSys_hit hg] at hstage ⊢
    exact hstage.trans (hf _) fun _ h => absurd h List.not_mem_nil
  · rw [stageTmcSys_miss hg] at hstage ⊢
    exact hstage.mono fun _ h => absurd h List.not_mem_nil

theorem observeMjd_sound (mjd : BitVec 17) (v : CivilTime) (s : State) : Sound [.time] s (observeMjd mjd v s) :=
  Sound.of_single (observeMjd_untouched mjd v s) (observeMjd_bits mjd v s) (by decide)
    (by rw [observeMjd_eq]; exact Reports.of_orIf rfl (ite_changes_iff _ _ _))

/-! ### Groups 8 and 10 -/

theorem tmcGate_sound {fs : List Field} {f : State → State} (hf : ∀ s, Sound fs s (f s)) (g : Group) (s : State) :
    Sound fs s (tmcGate g f s) := by
  have hgate : Sound [] s (tmcGate g id s) :=
    Sound.of_silent (tmcGate_untouched (Untouched.refl []) g s) (tmcGate_bits (BitsKept.refl []) g s) (by decide)
  by_cases hg : s.prevTmcArmed = true ∧ g = s.prevTmcGroup
  · rw [tmcGate_hit hg] at hgate ⊢
    exact hgate.trans (hf _) fun _ h => absurd h List.not_mem_nil
  · rw [tmcGate_miss hg] at hgate ⊢
    exact hgate.mono fun _ h => absurd h List.not_mem_nil

theorem publishSingle_sound (v : TmcPending) (s : State) : Sound [.tmcSg, .tmcMg] s (publishSingle v s) :=
  Sound.of_tmc (publishSingle_untouched v s) (publishSingle_bits v s) (by decide)

theorem startMulti_sound (ci : BitVec 3) (v : TmcPending) (s : State) : Sound [] s (startMulti ci v s) :=
  Sound.of_silent (startMulti_untouched ci v s) (startMulti_bits ci v s) (by decide)

theorem secondMulti_sound (ci : BitVec 3) (gsi : BitVec 2) (window : BitVec 28) (s : State) :
    Sound [.tmcSg, .tmcMg] s (secondMulti ci gsi window s) :=
  Sound.of_tmc (secondMulti_untouched ci gsi window s) (secondMulti_bits ci gsi window s) (by decide)

theorem nextMulti_sound (ci : BitVec 3) (gsi : BitVec 2) (window : BitVec 28) (s : State) :
    Sound [.tmcSg, .tmcMg] s (nextMulti ci gsi window s) :=
  Sound.of_tmc (nextMulti_untouched ci gsi window s) (nextMulti_bits ci gsi window s) (by decide)

theorem togglePtyn_raised {ab : Bool} {s : State} (h : ab ≠ s.ptynAbFlag) : (togglePtyn ab s).raised .ptyn = true := by
  rw [togglePtyn_eq]
  unfold State.raised
  simp only [if_neg h]
  rw [getLsbD_or_mask, decide_eq_true rfl, Bool.or_true]

theorem stagePtyn_sound (h : Fin 2) (v : Chars 4) (s : State) : Sound [] s (stagePtyn h v s) :=
  Sound.of_silent (stagePtyn_untouched h v s) (stagePtyn_bits h v s) (by decide)

theorem publishPtyn_sound (s : State) : Sound [.ptyn] s (publishPtyn s) :=
  Sound.of_single (publishPtyn_untouched s) (publishPtyn_bits s) (by decide)
    (by rw [publishPtyn_eq]; exact Reports.of_orIf rfl ((ite_changes_iff _ _ _).trans (not_congr (and_iff_left rfl).symm)))

theorem ptyn_reports (ab : Bool) (h : Fin 2) (v : Chars 4) (s : State) :
    Reports .ptyn s (publishPtyn (stagePtyn h v (togglePtyn ab s))) := by
  by_cases hab : ab = s.ptynAbFlag
  · rw [togglePtyn_same hab]
    exact ((stagePtyn_sound h v s).trans (publishPtyn_sound _) (by decide)).reports rfl
  · have hu := (stagePtyn_untouched h v (togglePtyn ab s)).trans (publishPtyn_untouched _)
    have hflag : (togglePtyn ab s).ptynAbFlag = (publishPtyn (stagePtyn h v (togglePtyn ab s))).ptynAbFlag := hu .ptynAbFlag (by decide)
    have hr : (stagePtyn h v (togglePtyn ab s)).raised .ptyn = true :=
      (stagePtyn_bits h v (togglePtyn ab s) Field.ptyn.pos (by decide)).2.trans (togglePtyn_raised hab)
    refine Reports.of_change ?_ fun hv => ?_
    · rw [publishPtyn_eq]; exact raised_of_orIf (g := .ptyn) rfl hr
    · exact hab ((togglePtyn_flag ab s).symm.trans (hflag.trans hv.2.symm))

theorem ptyn_sound (ab : Bool) (h : Fin 2) (v : Chars 4) (s : State) :
    Sound [.ptyn] s (publishPtyn (stagePtyn h v (togglePtyn ab s))) :=
  Sound.of_single (((togglePtyn_untouched ab s).trans (stagePtyn_untouched h v _)).trans (publishPtyn_untouched _))
    ((((togglePtyn_bits ab s).trans (stagePtyn_bits h v _)).trans (publishPtyn_bits _)).mono (by decide)) (by decide) (ptyn_reports ab h v s)

/-! ### A whole GROUP row -/

theorem rowDecoder_sound (i : Instr) (p : GroupBlocks) {s : State} (hs : s.Inv) : Sound (rowBits i) s (rowDecoder i p s) := by
  cases i with
  | g0a => exact (basicTuning_sound _ _ _ _ _ _ s).trans (addAfPair_sound (basicTuning_inv hs _ _ _ _ _ _) _ _) (by decide)
  | g0b => exact basicTuning_sound _ _ _ _ _ _ s
  | g1aEcc => exact observeEcc_sound _ s
  | g1aLc => exact observeLc_sound _ s
  | g2a => exact radioText_sound _ (storeRtA_untouched _ _ _ _ _) (storeRtA_bits _ _ _ _ _) _ _ s
  | g2b => exact radioText_sound _ (storeRtB_untouched _ _ _) (storeRtB_bits _ _ _) _ _ s
  | g3aTmcSys0 => exact (updateOda_sound _ _ _ s).trans (stageTmcSys_sound (fun s => setTmcSys_sound _ s) _ _) (by decide)
  | g3aTmcSys1 => exact (updateOda_sound _ _ _ s).trans (stageTmcSys_sound (fun s => setTmcSys_sound _ s) _ _) (by decide)
  | g3aTmcSysX => exact (updateOda_sound _ _ _ s).trans (stageTmcSys_sound Sound.refl _ _) (by decide)
  | g3a => exact updateOda_sound _ _ _ s
  | g4a => exact observeMjd_sound _ _ s
  | g8aTi => exact tmcGate_sound Sound.refl _ s
  | g8aSg => exact tmcGate_sound (publishSingle_sound _) _ s
  | g8aMg1 => exact tmcGate_sound (startMulti_sound _ _) _ s
  | g8aMg2 => exact tmcGate_sound (secondMulti_sound _ _ _) _ s
  | g8aMgn => exact tmcGate_sound (nextMulti_sound _ _ _) _ s
  | g10a => exact ptyn_sound _ _ _ s
  | _ => exact Sound.refl s

theorem commonBits_notMem_rowBits (i : Instr) : ∀ f ∈ commonBits, f ∉ rowBits i := by
  cases i <;> (dsimp only [rowBits]; decide)

/-! ### The TMC message -/

/-- From a state with neither TMC bit raised: one is raised iff the message changes, and never both (R264, R272). -/
def TmcSound (s t : State) : Prop :=
  s.raised .tmcSg = false → s.raised .tmcMg = false →
    ((t.raised .tmcSg = true ∨ t.raised .tmcMg = true) ↔ s.tmcMsg ≠ t.tmcMsg) ∧ ¬(t.raised .tmcSg = true ∧ t.raised .tmcMg = true)

theorem TmcSound.of_same {s t : State} (hsg : t.raised .tmcSg = s.raised .tmcSg) (hmg : t.raised .tmcMg = s.raised .tmcMg)
    (hm : s.tmcMsg = t.tmcMsg) : TmcSound s t := fun h1 h2 => by
  rw [hsg, hmg, h1, h2, hm]; simp

theorem TmcSound.of_frames {cs : List Component} {fs : List Field} {s t : State} (hu : Untouched cs s t) (hb : BitsKept fs s t)
    (hcs : .tmcMsg ∉ cs) (hfs : ∀ f ∈ fs, f.isTmc = false) : TmcSound s t :=
  have hbit (g : Field) (hg : g.isTmc = true) : t.raised g = s.raised g :=
    (hb g.pos fun f m e => by have := hfs f m; rw [Field.pos_inj e, hg] at this; cases this).2
  .of_same (hbit _ rfl) (hbit _ rfl) (hu .tmcMsg hcs)

/-- The publication of one kind raises its bit iff the message changes. -/
theorem TmcSound.of_publish {s t : State} {f : Field} (hf : f.isTmc = true) {c : Prop} [Decidable c]
    (hm : t.updMask = if c then s.updMask ||| f.mask else s.updMask) (hc : c ↔ s.tmcMsg ≠ t.tmcMsg) : TmcSound s t := fun h1 h2 => by
  have hbit (g : Field) (hg : s.raised g = false) : t.raised g = true ↔ c ∧ f = g := by
    unfold State.raised at hg ⊢
    rw [hm]
    split
    · rename_i h
      rw [getLsbD_or_mask, hg]
      simp only [Bool.false_or, decide_eq_true_eq, h, true_and]
      exact ⟨Field.pos_inj, congrArg Field.pos⟩
    · rename_i h
      simp [hg, h]
  rw [hbit _ h1, hbit _ h2, ← hc]
  have hkind : f = .tmcSg ∨ f = .tmcMg := by simpa [Field.isTmc] using hf
  rcases hkind with rfl | rfl <;> simp

theorem publishSingle_tmcSound (v : TmcPending) (s : State) : TmcSound s (publishSingle v s) := by
  rw [publishSingle_eq]; exact .of_publish (f := .tmcSg) rfl rfl ne_comm

theorem publishMulti_tmcSound (s : State) : TmcSound s (publishMulti s) := by
  rw [publishMulti_eq]; exact .of_publish (f := .tmcMg) rfl rfl ne_comm

theorem publishIfLast_tmcSound (gsi : BitVec 2) (s : State) : TmcSound s (publishIfLast gsi s) := by
  unfold publishIfLast
  split
  · exact publishMulti_tmcSound s
  · exact .of_same rfl rfl rfl

theorem secondMulti_tmcSound (ci : BitVec 3) (gsi : BitVec 2) (window : BitVec 28) (s : State) :
    TmcSound s (secondMulti ci gsi window s) := by
  by_cases hc : ci = s.continuityId
  · rw [secondMulti_accept hc]; exact publishIfLast_tmcSound gsi (s.storeSecond gsi window)
  · rw [secondMulti_reject hc]; exact .of_same rfl rfl rfl

theorem nextMulti_tmcSound (ci : BitVec 3) (gsi : BitVec 2) (window : BitVec 28) (s : State) :
    TmcSound s (nextMulti ci gsi window s) := by
  by_cases ht : s.takesNext ci gsi
  · rw [nextMulti_accept ht]; exact publishIfLast_tmcSound gsi (s.storeNext gsi window ht.1)
  · rw [nextMulti_reject ht]; exact .of_same rfl rfl rfl

theorem tmcGate_tmcSound {f : State → State} (hf : ∀ s, TmcSound s (f s)) (g : Group) (s : State) : TmcSound s (tmcGate g f s) := by
  by_cases hg : s.prevTmcArmed = true ∧ g = s.prevTmcGroup
  · rw [tmcGate_hit hg]; exact hf { s with prevTmcArmed := false }
  · rw [tmcGate_miss hg]; exact .of_same rfl rfl rfl

theorem rowDecoder_tmcSound (i : Instr) (p : GroupBlocks) (s : State) : TmcSound s (rowDecoder i p s) := by
  have hu := rowDecoder_untouched i p s
  have hb := rowDecoder_bits i p s
  cases i with
  | g8aSg => exact tmcGate_tmcSound (publishSingle_tmcSound _) _ s
  | g8aMg2 => exact tmcGate_tmcSound (secondMulti_tmcSound _ _ _) _ s
  | g8aMgn => exact tmcGate_tmcSound (nextMulti_tmcSound _ _ _) _ s
  | _ => exact .of_frames hu hb (by dsimp only [rowTouched]; decide) (by dsimp only [rowBits]; decide)

/-! ### The mask of a block -/

/-- The mask of the second state says exactly which public values differ from the first's (R46 (5)). -/
def MaskExact (s t : State) : Prop :=
  (∀ f : Field, f ≠ .tmcSg → f ≠ .tmcMg → (t.raised f = true ↔ ¬f.sameValue s t))
  ∧ ((t.raised .tmcSg = true ∨ t.raised .tmcMg = true) ↔ s.tmcMsg ≠ t.tmcMsg)
  ∧ ¬(t.raised .tmcSg = true ∧ t.raised .tmcMg = true)

/-- A mask built from zero by sound operations is exact, also from an earlier state with the same public values. -/
theorem MaskExact.of_sound {cs : List Component} {fs : List Field} {s s₀ t : State} (hm : s₀.updMask = 0) (hu : Untouched cs s s₀)
    (hcs : ∀ c ∈ cs, ∀ f ∈ c.fields, f ∈ ([] : List Field)) (h : Sound fs s₀ t) (ht : TmcSound s₀ t) : MaskExact s t := by
  have hzero (f : Field) : s₀.raised f = false := by unfold State.raised; rw [hm]; exact BitVec.getLsbD_zero
  have hsame (f : Field) : f.sameValue s s₀ :=
    Field.sameValue_of_untouched hu fun c hc m => List.not_mem_nil (hcs c hc f m)
  have hmsg : s.tmcMsg = s₀.tmcMsg := hsame .tmcSg
  refine ⟨fun f hsg hmg => ?_, hmsg ▸ ht (hzero _) (hzero _)⟩
  have hr : t.raised f = true ↔ s₀.raised f = true ∨ ¬f.sameValue s₀ t := h.reports (by simp [Field.isTmc, hsg, hmg])
  have hv : f.sameValue s₀ t ↔ f.sameValue s t :=
    ⟨fun h => Field.sameValue_trans (hsame f) h, fun h => Field.sameValue_trans (Field.sameValue_symm (hsame f)) h⟩
  rw [hr, hzero, hv]
  simp

/-- A block that completes no group leaves an empty mask and every public value as it was. -/
theorem MaskExact.of_silent {cs : List Component} {s t : State} (hm : t.updMask = 0) (hu : Untouched cs s t)
    (hcs : ∀ c ∈ cs, ∀ f ∈ c.fields, f ∈ ([] : List Field)) : MaskExact s t :=
  MaskExact.of_sound hm hu hcs (Sound.refl t) (.of_same rfl rfl rfl)

theorem stored_untouched (c : Bool) (raw : Vector RawBlock 4) (d : DecodeState) (s : State) :
    Untouched [.stats, .updMask, .readOut, .rdsDataRaw, .decodeState] s
      { enterBlock false c s with rdsDataRaw := raw, decodeState := d } := by
  intro k hk; cases k <;> first | exact absurd (by decide) hk | rfl

theorem completed_maskExact (c : Bool) (r : RawBlock) (i : Instr) (p : GroupBlocks) {s : State} (hs : s.Inv) :
    MaskExact s (afterGroup i p (storeD r (enterBlock false c s))) := by
  have hu := ((enterBlock_untouched false c s).trans (storeD_untouched r _)).trans (clearOutputs_untouched _)
  have hi := commonExtractors_storeD_inv (enterBlock_inv hs false c) r (Group.ofBlocks p) (p.b.getLsbD 10) (p.b.extractLsb' 5 5)
  have hcu := commonExtractors_untouched (Group.ofBlocks p) (p.b.getLsbD 10) (p.b.extractLsb' 5 5)
    (storeD r (enterBlock false c s)).clearOutputs
  have hcb := commonExtractors_bits (Group.ofBlocks p) (p.b.getLsbD 10) (p.b.extractLsb' 5 5)
    (storeD r (enterBlock false c s)).clearOutputs
  have hmsg : (storeD r (enterBlock false c s)).clearOutputs.tmcMsg = _ := hcu .tmcMsg (by decide)
  refine MaskExact.of_sound rfl hu (by decide)
    ((commonExtractors_sound _ _ _ _).trans (rowDecoder_sound i p hi) (commonBits_notMem_rowBits i)) fun hsg hmg => ?_
  rw [hmsg]
  exact rowDecoder_tmcSound i p _ ((hcb Field.tmcSg.pos (by decide)).2.trans hsg) ((hcb Field.tmcMg.pos (by decide)).2.trans hmg)

theorem BlockEffect.maskExact {s t : State} (h : BlockEffect s t) (hs : s.Inv) : MaskExact s t := by
  cases h with
  | error e c => exact MaskExact.of_silent rfl ((enterBlock_untouched e c s).trans (groupError_untouched _)) (by decide)
  | stored c raw d => exact MaskExact.of_silent rfl (stored_untouched c raw d s) (by decide)
  | completed c r i p => exact completed_maskExact c r i p hs

/-- Settles O50: `ADD` is a RAWBLOCK row, and the mask of each of its effects is exact. -/
theorem maskReportsTheChanges : Obligations.MaskReportsTheChanges := by
  unfold Obligations.MaskReportsTheChanges
  intro data block s t hs h
  rw [exec_add] at h
  exact (exec_block_effect (decodeBlock_isBlock _) h).maskExact hs

end Sys2Proof.Machine
end

section
/-! Observing and adding a block: an observer answers a value that its own answer does not move (R68, R315), and every block counts
(R121). -/

namespace Sys2Proof.Machine

/-! ### The observing operations -/

theorem State.answer_untouched (v : ReadValue) (s : State) : Untouched [.updMask, .readOut] s (s.answer v) := by
  intro k hk; cases k <;> first | exact absurd (by decide) hk | rfl

theorem State.answer_answer (v w : ReadValue) (s : State) : (s.answer v).answer w = s.answer w := rfl

theorem State.readReg_answer (r : PublicReg) (v : ReadValue) (s : State) : (s.answer v).readReg r = s.readReg r := by
  cases r <;> rfl

/-- An observing operation answers a function of the registers, which the ports are not part of. -/
theorem exec_observer {i : Instr} (hi : i = .getGroup ∨ (∃ r, i = .read r) ∨ i = .lookupIndex) :
    ∃ value : State → ReadValue, (∀ s, exec i s = whenCreated s fun s => s.answer (value s))
      ∧ ∀ v s, value (s.answer v) = value s := by
  rcases hi with rfl | ⟨r, rfl⟩ | rfl
  · exact ⟨fun s => .group s.rdsGroup, exec_getGroup, fun _ _ => rfl⟩
  · exact ⟨fun s => s.readReg r, exec_read r, State.readReg_answer r⟩
  · exact ⟨fun s => .indices s.lookupIndices, exec_lookupIndex, fun _ _ => rfl⟩

/-! ### Every block is counted -/

/-- In an instance every RAWBLOCK row completes (R333). -/
theorem exec_block_next {i : Instr} (hi : i.isBlock = true) {s : State} (hc : s.created = true) : ∃ t, exec i s = .next t := by
  cases i with
  | blkErr => exact ⟨_, (exec_blkErr ..).trans (whenCreated_of_created hc _)⟩
  | blkA => exact ⟨_, (exec_blkA ..).trans (whenCreated_of_created hc _)⟩
  | blkB => exact ⟨_, (exec_blkB ..).trans (whenCreated_of_created hc _)⟩
  | blkC => exact ⟨_, (exec_blkC ..).trans (whenCreated_of_created hc _)⟩
  | blkD c u d =>
    by_cases hd : s.decodeState = .cReceived
    · obtain ⟨p, hp⟩ := encodeGroup_of_isGroup (decodeGroup_isGroup (storeD ⟨d, ctrlByte false c u 3⟩ (enterBlock false c s)).rawGroup)
      rw [exec_blkD_complete c u d hd]
      exact ⟨_, exec_group_next hp hc⟩
    · rw [exec_blkD_early c u d hd]
      exact ⟨_, whenCreated_of_created hc _⟩
  | blkCp => exact ⟨_, (exec_blkCp ..).trans (whenCreated_of_created hc _)⟩
  | blkX5 => exact ⟨_, (exec_blkX5 ..).trans (whenCreated_of_created hc _)⟩
  | blkX6 => exact ⟨_, (exec_blkX6 ..).trans (whenCreated_of_created hc _)⟩
  | blkX7 => exact ⟨_, (exec_blkX7 ..).trans (whenCreated_of_created hc _)⟩
  | _ => cases hi

theorem rowDecoder_stats (i : Instr) (p : GroupBlocks) (s : State) : (rowDecoder i p s).stats = s.stats :=
  (rowDecoder_untouched i p s .stats (by cases i <;> (dsimp only [rowTouched]; decide))).symm

theorem afterGroup_blockCnt (i : Instr) (p : GroupBlocks) (s : State) : (afterGroup i p s).stats.blockCnt = s.stats.blockCnt := by
  unfold afterGroup
  rw [rowDecoder_stats, commonExtractors_eq]
  rfl

theorem BlockEffect.blockCnt {s t : State} (h : BlockEffect s t) : t.stats.blockCnt = s.stats.blockCnt + 1 := by
  cases h with
  | error => rfl
  | stored => rfl
  | completed c r i p => exact afterGroup_blockCnt i p (storeD r (enterBlock false c s))

/-- Settles O4: the answer to a value that ignores the ports is its own repetition, and `ADD` is a RAWBLOCK row, which counts. -/
theorem readsHaveNoSideEffect : Obligations.ReadsHaveNoSideEffect := by
  unfold Obligations.ReadsHaveNoSideEffect
  intro s hc
  constructor
  · intro i hi
    obtain ⟨value, hexec, hvalue⟩ := exec_observer hi
    have hnext {u : State} (hu : u.created = true) : exec i u = .next (u.answer (value u)) := by
      rw [hexec, whenCreated_of_created hu]
    refine ⟨s.answer (value s), value s, hnext hc, State.answer_untouched _ s, rfl, rfl, _, hnext hc, ?_⟩
    rw [hvalue, State.answer_answer]
  · intro data block
    have hb : (decodeBlock ⟨data, block⟩).isBlock = true := decodeBlock_isBlock _
    obtain ⟨t, ht⟩ := exec_block_next hb hc
    exact ⟨t, (exec_add data block s).trans ht, (exec_block_effect hb ht).blockCnt⟩

end Sys2Proof.Machine
end

section
/-! Decoding the blocks an instruction was composed into: per group type, then for every well-formed GROUP row (R104, R105). -/

namespace Sys2Proof.Machine

theorem isTmcAid_iff {aid : Word} : isTmcAid aid = true ↔ aid = Config.tmcAid0 ∨ aid = Config.tmcAid1 := by
  simp only [isTmcAid, Bool.or_eq_true, beq_iff_eq]

/-! ### The group types whose row another block selects -/

theorem decodeGroup_g1a (pi : Word) (tp : Bool) (pty low : BitVec 5) (c d : Word) :
    decodeGroup ⟨pi, blockB 1 .a tp pty low, c, d⟩ = decodeG1A ⟨pi, blockB 1 .a tp pty low, c, d⟩ tp pty := by
  simp only [decodeGroup, blockB_gid, blockB_ver, ofBit_bit, blockB_tp, blockB_pty]
  rfl

theorem decodeGroup_g3a (pi : Word) (tp : Bool) (pty low : BitVec 5) (c d : Word) :
    decodeGroup ⟨pi, blockB 3 .a tp pty low, c, d⟩ = decodeG3A ⟨pi, blockB 3 .a tp pty low, c, d⟩ tp pty := by
  simp only [decodeGroup, blockB_gid, blockB_ver, ofBit_bit, blockB_tp, blockB_pty]
  rfl

theorem decodeGroup_g4a (pi : Word) (tp : Bool) (pty low : BitVec 5) (c d : Word) :
    decodeGroup ⟨pi, blockB 4 .a tp pty low, c, d⟩ = decodeG4A ⟨pi, blockB 4 .a tp pty low, c, d⟩ tp pty := by
  simp only [decodeGroup, blockB_gid, blockB_ver, ofBit_bit, blockB_tp, blockB_pty]
  rfl

theorem decodeGroup_g8a (pi : Word) (tp : Bool) (pty low : BitVec 5) (c d : Word) :
    decodeGroup ⟨pi, blockB 8 .a tp pty low, c, d⟩ = decodeG8A ⟨pi, blockB 8 .a tp pty low, c, d⟩ tp pty := by
  simp only [decodeGroup, blockB_gid, blockB_ver, ofBit_bit, blockB_tp, blockB_pty]
  rfl

/-- Group 1A with a variant from 4 on (R190). -/
theorem decodeG1A_high {p : GroupBlocks} (h : 4#3 ≤ p.c.extractLsb' 12 3) (tp : Bool) (pty : BitVec 5) :
    decodeG1A p tp pty =
      .g1aV4_7 p.a tp pty (p.b.extractLsb' 0 5) (p.c.getLsbD 15) (p.c.extractLsb' 12 3) (p.c.extractLsb' 0 12) p.d := by
  have h4 : 4 ≤ (p.c.extractLsb' 12 3).toNat := h
  unfold decodeG1A
  dsimp only
  split
  case h_5 => rfl
  all_goals omega

/-- Group 3A with TMC's AID and a variant from 2 on (R226). -/
theorem decodeG3A_high {p : GroupBlocks} (ha : isTmcAid p.d = true) (h : 2#2 ≤ p.c.extractLsb' 14 2) (tp : Bool) (pty : BitVec 5) :
    decodeG3A p tp pty = .g3aTmcSysX p.a tp pty (p.b.extractLsb' 1 4) (Version.ofBit (p.b.getLsbD 0)) (p.c.extractLsb' 14 2)
      (p.c.extractLsb' 0 14) p.d := by
  have h2 : 2 ≤ (p.c.extractLsb' 14 2).toNat := h
  unfold decodeG3A
  rw [if_pos (isTmcAid_iff.mp ha)]
  split
  case h_3 => rfl
  all_goals omega

/-- Group 3A with another AID (R101). -/
theorem decodeG3A_other {p : GroupBlocks} (ha : isTmcAid p.d = false) (tp : Bool) (pty : BitVec 5) :
    decodeG3A p tp pty = .g3a p.a tp pty (p.b.extractLsb' 1 4) (Version.ofBit (p.b.getLsbD 0)) p.c p.d :=
  if_neg fun h => Bool.false_ne_true (ha.symm.trans (isTmcAid_iff.mpr h))

/-! ### Every GROUP row -/

/-- A GROUP row's instruction is what its four blocks decode to. -/
theorem decodeGroup_of_encodes {i : Instr} {p : GroupBlocks} (h : Encodes i p) : decodeGroup p = i := by
  obtain ⟨hw, he⟩ := h
  cases i with
  | g1aEcc | g1aLc | g1aV1 | g1aV2 =>
    cases he
    rw [decodeGroup_g1a]
    simp only [decodeG1A, blockB_low_all, blockC1_xC15, blockC1_variant, blockC1_xC, blockC1_byte, blockC1_rest]
    rfl
  | g1aV4_7 pi tp pty xB xC15 variant xC xD =>
    cases he
    rw [decodeGroup_g1a, decodeG1A_high (by rw [blockC1_variant]; exact of_decide_eq_true hw)]
    simp only [blockB_low_all, blockC1_xC15, blockC1_variant, blockC1_rest]
  | g3aTmcSys0 =>
    cases he
    rw [decodeGroup_g3a, decodeG3A, if_pos (isTmcAid_iff.mp hw)]
    simp (disch := decide) only [blockB_low, blockB_low_bit, lowG3_gid, lowG3_ver, ofBit_bit, blockC3v0_variant, blockC3v0_xC,
      blockC3v0_ltn, blockC3v0_afi, blockC3v0_enhancedMode, blockC3v0_mgs]
    rfl
  | g3aTmcSys1 =>
    cases he
    rw [decodeGroup_g3a, decodeG3A, if_pos (isTmcAid_iff.mp hw)]
    simp (disch := decide) only [blockB_low, blockB_low_bit, lowG3_gid, lowG3_ver, ofBit_bit, blockC3v1_variant, blockC3v1_gap,
      blockC3v1_sid, blockC3v1_tA, blockC3v1_tW, blockC3v1_tD]
    rfl
  | g3aTmcSysX =>
    cases he
    obtain ⟨hv, ha⟩ := Bool.and_eq_true_iff.mp hw
    rw [decodeGroup_g3a, decodeG3A_high ha (by rw [blockC3x_variant]; exact of_decide_eq_true hv)]
    simp (disch := decide) only [blockB_low, blockB_low_bit, lowG3_gid, lowG3_ver, ofBit_bit, blockC3x_variant, blockC3x_xC]
  | g3a =>
    cases he
    rw [decodeGroup_g3a, decodeG3A_other (Bool.not_eq_eq_eq_not.mp hw)]
    simp (disch := decide) only [blockB_low, blockB_low_bit, lowG3_gid, lowG3_ver, ofBit_bit]
  | g4a =>
    cases he
    rw [decodeGroup_g4a, decodeG4A]
    simp (disch := decide) only [blockB_low, lowG4_xB, lowG4_mjd, blockC4_mjd, blockC4_hour, blockD4_hour, blockD4_minute,
      blockD4_sign, blockD4_mag, mjd_join, hour_join]
  | g8aTi | g8aSg | g8aMg1 | g8aMg2 | g8aMgn =>
    cases he
    rw [decodeGroup_g8a, decodeG8A]
    simp (disch := decide) only [blockB_low, blockB_low_bit, lowG8_sg, lowG8_ti, lowG8_x3, blockC8_div, blockC8_dir, blockC8_extent,
      blockC8_event, blockC8w_fgi, blockC8w_sgi, blockC8w_gsi, blockC8w_window, window_join, if_true, if_false, Bool.false_eq_true]
  | g15 pi ver =>
    cases he
    simp only [decodeGroup, blockB_gid, blockB_ver, ofBit_bit, blockB_tp, blockB_pty, blockB_low_all]
    cases ver <;> rfl
  | _ =>
    cases he <;>
    · simp (disch := decide) only [decodeGroup, blockB_gid, blockB_ver, ofBit_bit, blockB_tp, blockB_pty, blockB_low, blockB_low_bit,
        BitVec.extractLsb'_eq_self, lowG0_ta, lowG0_ms, lowG0_dibit, lowG0_seg, lowG2_ab, lowG2_seg, lowG10_ab, lowG10_xB, lowG10_seg,
        bytePair_msb, bytePair_lsb]
      rfl

end Sys2Proof.Machine
end

section
/-! The groups without a decoder: the rows they decode to write nothing beyond the common extractors (R100, R148, R190). -/

namespace Sys2Proof.Machine

theorem rowTouched_rowBits_of_ignored {i : Instr} {p : GroupBlocks} (h : encodeGroup i = some p) (hi : isIgnoredGroup p = true) :
    rowTouched i = [] ∧ rowBits i = [] := by
  cases i with
  | g0a | g0b | g1aEcc | g1aLc | g2a | g2b | g3aTmcSys0 | g3aTmcSys1 | g3aTmcSysX | g3a | g4a | g8aTi | g8aSg | g8aMg1 | g8aMg2 | g8aMgn
  | g10a =>
    cases h
    simp only [isIgnoredGroup, gidOf, verBOf, blockB_gid, blockB_ver, blockC1_variant] at hi
    simp [Version.bit] at hi
  | _ => exact ⟨rfl, rfl⟩

/-- Settles O24: the frame of a GROUP row, for the rows an ignored group decodes to. -/
theorem ignoredGroupsTouchNothingElse : Obligations.IgnoredGroupsTouchNothingElse := by
  unfold Obligations.IgnoredGroupsTouchNothingElse
  rintro i p s ⟨-, he⟩ hi hc
  obtain ⟨ht, hb⟩ := rowTouched_rowBits_of_ignored he hi
  have hf := afterGroup_frame i p s
  rw [ht, hb] at hf
  exact ⟨afterGroup i p s, exec_group_next he hc, hf⟩

end Sys2Proof.Machine
end

section
/-! Four clean blocks of a group, one step each (R104, R121 to R126), and the instruction the fourth of them runs. -/

namespace Sys2Proof.Machine

/-- A RAWBLOCK row's instruction is what its block decodes to. -/
theorem decodeBlock_of_encodes {i : Instr} {r : RawBlock} (h : encodeBlock i = some r) : decodeBlock r = i := by
  cases i with
  | blkErr | blkA | blkB | blkC | blkD | blkCp | blkX5 | blkX6 | blkX7 =>
    cases h
    simp only [decodeBlock, ctrlByte_error, ctrlByte_corrected, ctrlByte_unused, ctrlByte_label, if_true, if_false,
      Bool.false_eq_true] <;> rfl
  | _ => cases h

/-- A step with a block next in the input runs the RAWBLOCK row of that block (R314). -/
theorem step_block {i : Instr} {data : Word} {block : Byte} {rest : List HostOp} {s : State} (hi : encodeBlock i = some ⟨data, block⟩)
    (h : s.pending = .blkStb data block :: rest) : step s = exec i { s with pending := rest } := by
  rw [step_of_pending_cons h, decodeOp, exec_add, decodeBlock_of_encodes hi]

/-- The state after `n` clean blocks, with that input left, those blocks stored and the assembler in that state (R121 to R125). -/
def State.afterBlocks (s : State) (n : Counter) (rest : List HostOp) (raw : Vector RawBlock 4) (d : DecodeState) : State :=
  { s with
    pending := rest, rdsDataRaw := raw, decodeState := d, updMask := 0, readOut := none
    stats := { s.stats with blockCnt := s.stats.blockCnt + n } }

/-- Entry of a clean block counts it and empties the ports (R121). -/
theorem enterBlock_afterBlocks (s : State) (n : Counter) (rest rest' : List HostOp) (raw : Vector RawBlock 4) (d : DecodeState) :
    enterBlock false false { s.afterBlocks n rest' raw d with pending := rest } = s.afterBlocks (n + 1) rest raw d := by
  simp [enterBlock, countBlock, count, State.clearOutputs, State.afterBlocks, BitVec.add_assoc]

theorem step_cleanA {data : Word} {rest : List HostOp} {s : State} (hc : s.created = true) (hd : s.decodeState = .empty)
    (h : s.pending = .blkStb data 0 :: rest) :
    step s = .next (s.afterBlocks 1 rest #v[⟨data, 0⟩, ⟨0, 0⟩, ⟨0, 0⟩, ⟨0, 0⟩] .aReceived) := by
  rw [step_block (i := .blkA false 0 data) rfl h, exec_blkA, whenCreated_of_created (by exact hc), takeA_empty (by exact hd)]
  rfl

section
variable {data : Word} {rest : List HostOp} {s : State} (n : Counter) (r0 r1 r2 r3 : RawBlock)

theorem step_cleanB (hc : s.created = true) :
    step (s.afterBlocks n (.blkStb data 1 :: rest) #v[r0, r1, r2, r3] .aReceived) =
      .next (s.afterBlocks (n + 1) rest #v[r0, ⟨data, 1⟩, r2, r3] .bReceived) := by
  rw [step_block (i := .blkB false 0 data) rfl rfl, exec_blkB, whenCreated_of_created (by exact hc), enterBlock_afterBlocks,
    takeB_aReceived rfl]
  rfl

theorem step_cleanC {third : Byte} (hc : s.created = true) (ht : third = 2 ∨ third = 4) :
    step (s.afterBlocks n (.blkStb data third :: rest) #v[r0, r1, r2, r3] .bReceived) =
      .next (s.afterBlocks (n + 1) rest #v[r0, r1, ⟨data, third⟩, r3] .cReceived) := by
  rcases ht with rfl | rfl
  · rw [step_block (i := .blkC false 0 data) rfl rfl, exec_blkC, whenCreated_of_created (by exact hc), enterBlock_afterBlocks,
      takeC_bReceived rfl]
    rfl
  · rw [step_block (i := .blkCp false 0 data) rfl rfl, exec_blkCp, whenCreated_of_created (by exact hc), enterBlock_afterBlocks,
      takeC_bReceived rfl]
    rfl

theorem step_cleanD :
    step (s.afterBlocks n (.blkStb data 3 :: rest) #v[r0, r1, r2, r3] .cReceived) =
      exec (decodeGroup ⟨r0.data, r1.data, r2.data, data⟩)
        (storeD ⟨data, 3⟩ (s.afterBlocks (n + 1) rest #v[r0, r1, r2, r3] .cReceived)) := by
  rw [step_block (i := .blkD false 0 data) rfl rfl, exec_blkD_complete _ _ _ rfl, enterBlock_afterBlocks]
  rfl

end

/-- A GROUP row clears the ports itself (R140), so what they held before it does not matter. -/
theorem exec_group_clearOutputs {i : Instr} {p : GroupBlocks} (h : encodeGroup i = some p) (s : State) :
    exec i s.clearOutputs = exec i s := by
  rw [exec_group h, exec_group h]
  rfl

/-- The state in which the group of four clean blocks is decoded (R126). -/
def State.withFourBlocks (s : State) (p : GroupBlocks) (third : Byte) (rest : List HostOp) : State :=
  { s with
    decodeState := .empty
    rdsDataRaw := #v[⟨p.a, 0⟩, ⟨p.b, 1⟩, ⟨p.c, third⟩, ⟨p.d, 3⟩]
    stats := { s.stats with blockCnt := s.stats.blockCnt + 4, groupCnt := s.stats.groupCnt + 1 }
    pending := rest }

/-- Settles O21: a step per block, then the instruction its blocks encode, which is what they decode to. -/
theorem fourBlocksExecuteTheGroup : Obligations.FourBlocksExecuteTheGroup := by
  unfold Obligations.FourBlocksExecuteTheGroup
  intro i p third rest s h hc hd ht hp
  have hlast : exec i (s.withFourBlocks p third rest) = .next (afterGroup i p (s.withFourBlocks p third rest)) :=
    exec_group_next h.2 hc
  refine ⟨_, _, _, _, step_cleanA hc hd hp, step_cleanB 1 _ _ _ _ hc, step_cleanC (1 + 1) _ _ _ _ hc ht, ?_, rfl, rfl, rfl,
    hlast⟩
  have hstored : storeD ⟨p.d, 3⟩ (s.afterBlocks 4 rest #v[⟨p.a, 0⟩, ⟨p.b, 1⟩, ⟨p.c, third⟩, ⟨0, 0⟩] .cReceived) =
      (s.withFourBlocks p third rest).clearOutputs := rfl
  have hfour : (1 + 1 + 1 + 1 : Counter) = 4 := by decide
  rw [step_cleanD, hfour, hstored, decodeGroup_of_encodes h, exec_group_clearOutputs h.2, hlast]

end Sys2Proof.Machine
end

section
/-! The opcode table by the fields its matches fix (R105): a row matches a word when each fixed field has its value, so the first
matching row is found by comparing fields, as the decoder does. -/

namespace Sys2Proof

/-! ### A match under a mask as fields -/

/-- A field of a word: its lowest bit and its width. -/
structure BitField where
  pos : Nat
  len : Nat

/-- What a word holds in the field. -/
def BitField.of (f : BitField) (w : Nat) : Nat := (w >>> f.pos) % 2 ^ f.len

/-- The mask of the field. -/
def BitField.mask (f : BitField) : Nat := (2 ^ f.len - 1) <<< f.pos

/-- Fields with the values a row gives them. -/
abbrev FixedFields := List (BitField × Nat)

/-- The mask of all the fields together. -/
def FixedFields.mask (fs : FixedFields) : Nat := fs.foldr (fun f m => f.1.mask ||| m) 0

/-- The word has the value of each field. -/
def FixedFields.hold (fs : FixedFields) (w : Nat) : Bool := fs.all fun f => f.1.of w == f.2

@[simp] theorem FixedFields.hold_nil (w : Nat) : FixedFields.hold [] w = true := rfl

@[simp] theorem FixedFields.hold_cons (f : BitField) (x : Nat) (fs : FixedFields) (w : Nat) :
    FixedFields.hold ((f, x) :: fs) w = (f.of w == x && FixedFields.hold fs w) := rfl

theorem BitField.land_mask (f : BitField) (w : Nat) : w &&& f.mask = f.of w <<< f.pos := by
  refine Nat.eq_of_testBit_eq fun k => ?_
  simp only [mask, of, Nat.testBit_and, Nat.testBit_shiftLeft, Nat.testBit_two_pow_sub_one, Nat.testBit_mod_two_pow,
    Nat.testBit_shiftRight]
  by_cases hk : f.pos ≤ k
  · simp [hk, Bool.and_comm]
  · simp [hk]

theorem BitField.land_mask_eq_iff (f : BitField) (w b : Nat) : w &&& f.mask = b &&& f.mask ↔ f.of w = f.of b := by
  rw [land_mask, land_mask, Nat.shiftLeft_eq, Nat.shiftLeft_eq, Nat.mul_left_inj (Nat.two_pow_pos f.pos).ne']

theorem land_eq_land_iff (w b m : Nat) : w &&& m = b &&& m ↔ ∀ k, m.testBit k = true → w.testBit k = b.testBit k := by
  have bitwise (k : Nat) : (w &&& m).testBit k = (b &&& m).testBit k ↔ (m.testBit k = true → w.testBit k = b.testBit k) := by
    rw [Nat.testBit_and, Nat.testBit_and]
    cases m.testBit k <;> simp
  exact ⟨fun h k => (bitwise k).mp (by rw [h]), fun h => Nat.eq_of_testBit_eq fun k => (bitwise k).mpr (h k)⟩

theorem land_or_eq_iff (w b m m' : Nat) : w &&& (m ||| m') = b &&& (m ||| m') ↔ w &&& m = b &&& m ∧ w &&& m' = b &&& m' := by
  simp only [land_eq_land_iff, Nat.testBit_or, Bool.or_eq_true, or_imp, forall_and]

theorem FixedFields.land_mask_eq_iff (fs : FixedFields) (w b : Nat) :
    w &&& fs.mask = b &&& fs.mask ↔ ∀ f ∈ fs, f.1.of w = f.1.of b := by
  induction fs with
  | nil => simp [mask]
  | cons f fs ih =>
    show w &&& (f.1.mask ||| mask fs) = b &&& (f.1.mask ||| mask fs) ↔ _
    rw [land_or_eq_iff, f.1.land_mask_eq_iff, ih, List.forall_mem_cons]

/-- The row's mask is that of these fields, and its match gives each its value. -/
def OpcodeRow.fixes (r : OpcodeRow) (fs : FixedFields) : Bool := r.mask == fs.mask && r.bits &&& r.mask == r.bits && fs.hold r.bits

theorem OpcodeRow.matches_eq {r : OpcodeRow} {fs : FixedFields} (h : r.fixes fs = true) (w : Nat) :
    (w &&& r.mask == r.bits) = fs.hold w := by
  simp only [fixes, Bool.and_eq_true, beq_iff_eq] at h
  obtain ⟨⟨hmask, hbits⟩, hvals⟩ := h
  rw [Bool.eq_iff_iff, beq_iff_eq, ← hbits, hmask, FixedFields.land_mask_eq_iff]
  simp only [FixedFields.hold, List.all_eq_true, beq_iff_eq] at hvals ⊢
  exact forall₂_congr fun f hf => by rw [hvals f hf]

/-- A table of rows by mnemonic and fixed fields. -/
abbrev FieldTable := List (String × FixedFields)

/-- The first row whose fields the word has. -/
def FieldTable.firstRow (t : FieldTable) (w : Nat) : Option String := (t.find? fun e => e.2.hold w).map (·.1)

/-- The two tables have the same rows in the same order. -/
def FieldTable.Describes (t : FieldTable) (rows : List OpcodeRow) : Prop :=
  List.Forall₂ (fun e r => r.mnemonic = e.1 ∧ r.fixes e.2 = true) t rows

theorem firstRow_eq {t : FieldTable} {rows : List OpcodeRow} (h : t.Describes rows) (w : Nat) : firstRow rows w = t.firstRow w := by
  induction h with
  | nil => rfl
  | @cons e r t rows hr _ ih =>
    obtain ⟨hname, hfix⟩ := hr
    rw [firstRow, List.find?_cons, FieldTable.firstRow, List.find?_cons, OpcodeRow.matches_eq hfix]
    cases e.2.hold w with
    | true => exact congrArg some hname
    | false => exact ih

theorem toNat_append_eq {m n : Nat} (x : BitVec m) (y : BitVec n) : (x ++ y).toNat = x.toNat * 2 ^ n + y.toNat := by
  rw [BitVec.toNat_append, ← Nat.shiftLeft_add_eq_or_of_lt y.isLt, Nat.shiftLeft_eq]

theorem toNat_getLsbD {w : Nat} (x : BitVec w) (k : Nat) : (x.getLsbD k).toNat = x.toNat / 2 ^ k % 2 := Nat.toNat_testBit _ _

/-! ### The RAWBLOCK rows -/

namespace ControlByte

/-- The ERROR flag (R81). -/
def error : BitField := ⟨7, 1⟩
/-- The label code (R81). -/
def label : BitField := ⟨0, 3⟩

/-- The RAWBLOCK rows by their fields. -/
def table : FieldTable :=
  [("BLK_ERR", [(error, 1)]), ("BLK_A", [(error, 0), (label, 0)]), ("BLK_B", [(error, 0), (label, 1)]),
   ("BLK_C", [(error, 0), (label, 2)]), ("BLK_D", [(error, 0), (label, 3)]), ("BLK_Cp", [(error, 0), (label, 4)]),
   ("BLK_X5", [(error, 0), (label, 5)]), ("BLK_X6", [(error, 0), (label, 6)]), ("BLK_X7", [(error, 0), (label, 7)])]

theorem table_describes : table.Describes blockRows := by unfold FieldTable.Describes; decide

theorem error_of (x : Byte) : error.of x.toNat = (x.getLsbD 7).toNat := by
  rw [toNat_getLsbD, ← Nat.shiftRight_eq_div_pow]; rfl

theorem label_of (x : Byte) : label.of x.toNat = (x.extractLsb' 0 3).toNat := (BitVec.extractLsb'_toNat 0 3 x).symm

theorem firstRow_decodeBlock (r : RawBlock) : table.firstRow r.block.toNat = some (decodeBlock r).mnemonic := by
  have herror := error_of r.block
  have hlabel := label_of r.block
  have hlt := (r.block.extractLsb' 0 3).isLt
  unfold decodeBlock
  dsimp only
  generalize r.block.getLsbD 7 = e at herror ⊢
  cases e with
  | true => simp [table, FieldTable.firstRow, herror, Instr.mnemonic]
  | false =>
    interval_cases (r.block.extractLsb' 0 3).toNat
    all_goals simp [table, FieldTable.firstRow, herror, hlabel, Instr.mnemonic]

end ControlByte

/-! ### The GROUP rows -/

namespace GroupWord

/-- The group id `B[15:12]` (R85). -/
def gid : BitField := ⟨44, 4⟩
/-- The version `B[11]` (R85). -/
def ver : BitField := ⟨43, 1⟩
/-- The SG flag `B[4]` of group 8A (R94). -/
def sg : BitField := ⟨36, 1⟩
/-- The TI flag `B[3]` of group 8A (R94). -/
def ti : BitField := ⟨35, 1⟩
/-- The bit `C[15]`: FGI of group 8A (R94), the upper bit of a TMC system word's variant (R90). -/
def c15 : BitField := ⟨31, 1⟩
/-- The bit `C[14]`: SGI of group 8A (R94), the lower bit of a TMC system word's variant (R90), the upper of a 1A variant (R88). -/
def c14 : BitField := ⟨30, 1⟩
/-- The variant `C[14:12]` of group 1A (R88). -/
def variant : BitField := ⟨28, 3⟩
/-- The AID without its lowest bit, in which TMC's two differ (R222). -/
def aid : BitField := ⟨1, 15⟩

/-- The GROUP rows by their fields. -/
def table : FieldTable :=
  [("G0A", [(gid, 0), (ver, 0)]), ("G0B", [(gid, 0), (ver, 1)]),
   ("G1A_ECC", [(gid, 1), (ver, 0), (variant, 0)]), ("G1A_LC", [(gid, 1), (ver, 0), (variant, 3)]),
   ("G1A_V1", [(gid, 1), (ver, 0), (variant, 1)]), ("G1A_V2", [(gid, 1), (ver, 0), (variant, 2)]),
   ("G1A_V4_7", [(gid, 1), (ver, 0), (c14, 1)]), ("G1B", [(gid, 1), (ver, 1)]),
   ("G2A", [(gid, 2), (ver, 0)]), ("G2B", [(gid, 2), (ver, 1)]),
   ("G3A_TMC_SYS0", [(gid, 3), (ver, 0), (c15, 0), (c14, 0), (aid, 0x66A3)]),
   ("G3A_TMC_SYS1", [(gid, 3), (ver, 0), (c15, 0), (c14, 1), (aid, 0x66A3)]),
   ("G3A_TMC_SYSX", [(gid, 3), (ver, 0), (c15, 1), (aid, 0x66A3)]),
   ("G3A", [(gid, 3), (ver, 0)]), ("G3B", [(gid, 3), (ver, 1)]),
   ("G4A", [(gid, 4), (ver, 0)]), ("G4B", [(gid, 4), (ver, 1)]), ("G5", [(gid, 5)]), ("G6", [(gid, 6)]), ("G7", [(gid, 7)]),
   ("G8A_TI", [(gid, 8), (ver, 0), (ti, 1)]), ("G8A_SG", [(gid, 8), (ver, 0), (ti, 0), (sg, 1)]),
   ("G8A_MG1", [(gid, 8), (ver, 0), (ti, 0), (sg, 0), (c15, 1)]),
   ("G8A_MG2", [(gid, 8), (ver, 0), (ti, 0), (sg, 0), (c15, 0), (c14, 1)]),
   ("G8A_MGN", [(gid, 8), (ver, 0), (ti, 0), (sg, 0), (c15, 0), (c14, 0)]),
   ("G8B", [(gid, 8), (ver, 1)]), ("G9", [(gid, 9)]), ("G10A", [(gid, 10), (ver, 0)]), ("G10B", [(gid, 10), (ver, 1)]),
   ("G11", [(gid, 11)]), ("G12", [(gid, 12)]), ("G13", [(gid, 13)]), ("G14", [(gid, 14)]), ("G15", [(gid, 15)])]

theorem table_describes : table.Describes groupRows := by unfold FieldTable.Describes; decide

theorem word_toNat (p : GroupBlocks) :
    p.word.toNat = p.a.toNat * 2 ^ 48 + p.b.toNat * 2 ^ 32 + p.c.toNat * 2 ^ 16 + p.d.toNat := by
  simp only [GroupBlocks.word, toNat_append_eq]
  omega

/-- The fields of a group word in its payloads (R10). -/
theorem word_fields (p : GroupBlocks) :
    gid.of p.word.toNat = (p.b.extractLsb' 12 4).toNat ∧ ver.of p.word.toNat = (p.b.getLsbD 11).toNat
    ∧ sg.of p.word.toNat = (p.b.getLsbD 4).toNat ∧ ti.of p.word.toNat = (p.b.getLsbD 3).toNat
    ∧ c15.of p.word.toNat = (p.c.getLsbD 15).toNat ∧ c14.of p.word.toNat = (p.c.getLsbD 14).toNat
    ∧ variant.of p.word.toNat = (p.c.extractLsb' 12 3).toNat ∧ aid.of p.word.toNat = p.d.toNat / 2 := by
  simp only [gid, ver, sg, ti, c15, c14, variant, aid, BitField.of, BitVec.extractLsb'_toNat, toNat_getLsbD,
    Nat.shiftRight_eq_div_pow, word_toNat]
  omega

theorem aid_of_word_iff (p : GroupBlocks) : aid.of p.word.toNat = 0x66A3 ↔ p.d = Config.tmcAid0 ∨ p.d = Config.tmcAid1 := by
  obtain ⟨-, -, -, -, -, -, -, haid⟩ := word_fields p
  rw [haid, ← BitVec.toNat_inj, ← BitVec.toNat_inj]
  show _ ↔ p.d.toNat = 0xCD46 ∨ p.d.toNat = 0xCD47
  omega

theorem c14_eq_variant_div (w : Nat) : c14.of w = variant.of w / 4 := by
  simp only [c14, variant, BitField.of, Nat.shiftRight_eq_div_pow]
  omega

theorem sysVariant_toNat (c : Word) : (c.extractLsb' 14 2).toNat = 2 * (c.getLsbD 15).toNat + (c.getLsbD 14).toNat := by
  rw [toNat_getLsbD, toNat_getLsbD, BitVec.extractLsb'_toNat, Nat.shiftRight_eq_div_pow]
  omega

section
variable {p : GroupBlocks} (tp : Bool) (pty : BitVec 5)

theorem firstRow_decodeG1A (hgid : gid.of p.word.toNat = 1) (hver : ver.of p.word.toNat = 0) :
    table.firstRow p.word.toNat = some (decodeG1A p tp pty).mnemonic := by
  obtain ⟨-, -, -, -, -, -, hvariant, -⟩ := word_fields p
  have h14 := c14_eq_variant_div p.word.toNat
  have hlt := (p.c.extractLsb' 12 3).isLt
  unfold decodeG1A
  interval_cases (p.c.extractLsb' 12 3).toNat
  all_goals
    rw [hvariant] at h14
    simp [table, FieldTable.firstRow, hgid, hver, hvariant, h14, Instr.mnemonic]

theorem firstRow_decodeG3A (hgid : gid.of p.word.toNat = 3) (hver : ver.of p.word.toNat = 0) :
    table.firstRow p.word.toNat = some (decodeG3A p tp pty).mnemonic := by
  obtain ⟨-, -, -, -, h15, h14, -, -⟩ := word_fields p
  unfold decodeG3A
  by_cases hd : p.d = Config.tmcAid0 ∨ p.d = Config.tmcAid1
  · have haid := (aid_of_word_iff p).mpr hd
    rw [if_pos hd, sysVariant_toNat]
    generalize p.c.getLsbD 15 = x15 at h15 ⊢
    generalize p.c.getLsbD 14 = x14 at h14 ⊢
    cases x15 <;> cases x14
    all_goals simp [table, FieldTable.firstRow, hgid, hver, haid, h15, h14, Instr.mnemonic]
  · have haid := (aid_of_word_iff p).not.mpr hd
    rw [if_neg hd]
    simp [table, FieldTable.firstRow, hgid, hver, haid, Instr.mnemonic]

theorem firstRow_decodeG8A (hgid : gid.of p.word.toNat = 8) (hver : ver.of p.word.toNat = 0) :
    table.firstRow p.word.toNat = some (decodeG8A p tp pty).mnemonic := by
  obtain ⟨-, -, hsg, hti, h15, h14, -, -⟩ := word_fields p
  unfold decodeG8A
  generalize p.b.getLsbD 3 = xti at hti ⊢
  generalize p.b.getLsbD 4 = xsg at hsg ⊢
  generalize p.c.getLsbD 15 = x15 at h15 ⊢
  generalize p.c.getLsbD 14 = x14 at h14 ⊢
  cases xti <;> cases xsg <;> cases x15 <;> cases x14
  all_goals simp [table, FieldTable.firstRow, hgid, hver, hti, hsg, h15, h14, Instr.mnemonic]

end

theorem firstRow_decodeGroup (p : GroupBlocks) : table.firstRow p.word.toNat = some (decodeGroup p).mnemonic := by
  obtain ⟨hgid, hver, -⟩ := word_fields p
  have hlt := (p.b.extractLsb' 12 4).isLt
  unfold decodeGroup
  generalize p.b.getLsbD 11 = v at hver ⊢
  cases v with
  | true =>
    interval_cases (p.b.extractLsb' 12 4).toNat
    all_goals simp [table, FieldTable.firstRow, hgid, hver, Version.ofBit, Instr.mnemonic]
  | false =>
    interval_cases (p.b.extractLsb' 12 4).toNat
    -- The ids 8, 3 and 1, whose row another field selects; goal `k + 1` is id `k`.
    on_goal 9 => exact firstRow_decodeG8A _ _ hgid hver
    on_goal 4 => exact firstRow_decodeG3A _ _ hgid hver
    on_goal 2 => exact firstRow_decodeG1A _ _ hgid hver
    all_goals simp [table, FieldTable.firstRow, hgid, hver, Version.ofBit, decodeG4A, Instr.mnemonic]

end GroupWord

/-- Settles O14: both tables by their fields, which are the fields the decoder compares. -/
theorem decoderFollowsTheOpcodeTable : Obligations.DecoderFollowsTheOpcodeTable := by
  unfold Obligations.DecoderFollowsTheOpcodeTable
  refine ⟨fun p => ?_, fun r => ?_⟩
  · rw [firstRow_eq GroupWord.table_describes, GroupWord.firstRow_decodeGroup]
  · rw [firstRow_eq ControlByte.table_describes, ControlByte.firstRow_decodeBlock]

/-- Settles O11: the words are literals. -/
theorem knownWordsDecode : Obligations.KnownWordsDecode := by
  unfold Obligations.KnownWordsDecode
  decide

end Sys2Proof
end

section
/-! What one block does (R120 to R127): it is the one the assembler's state expects, and is stored or completes the group, or it is a
group error. The statements about the assembler are case analyses over these three. -/

namespace Sys2Proof.Machine

/-! ### The row of a RawBlock -/

/-- What a RawBlock decodes to encodes to it again (R81, R105). -/
theorem encodeBlock_decodeBlock (r : RawBlock) : encodeBlock (decodeBlock r) = some r := by
  obtain ⟨data, block⟩ := r
  have hfields := ctrlByte_fields block
  have hlabel : block.extractLsb' 0 3 = BitVec.ofNat 3 (block.extractLsb' 0 3).toNat := by
    rw [BitVec.ofNat_toNat, BitVec.setWidth_eq]
  have hlt := (block.extractLsb' 0 3).isLt
  cases he : block.getLsbD 7 with
  | true =>
    rw [he] at hfields
    simp only [decodeBlock, he, if_true, encodeBlock, hfields]
  | false =>
    rw [he, hlabel] at hfields
    simp only [decodeBlock, he]
    interval_cases (block.extractLsb' 0 3).toNat
    all_goals exact congrArg (fun b => some (RawBlock.mk data b)) hfields

theorem isBlock_of_encodeBlock {i : Instr} {r : RawBlock} (h : encodeBlock i = some r) : i.isBlock = true := by
  cases i with
  | blkErr | blkA | blkB | blkC | blkD | blkCp | blkX5 | blkX6 | blkX7 => rfl
  | _ => cases h

/-! ### Accepting a block -/

theorem accepts_of_label {block : Byte} {l : Label} (h : effectiveLabel block = some l) (d : DecodeState) :
    d.accepts block = d.expects l := by
  rw [DecodeState.accepts, h]

theorem accepts_of_no_label {block : Byte} (h : effectiveLabel block = none) (d : DecodeState) : d.accepts block = false := by
  rw [DecodeState.accepts, h]

theorem expects_d (d : DecodeState) : d.expects .d = decide (d = .cReceived) := by cases d <;> rfl

/-! ### Entering and storing a block -/

/-- Entry of `add` for that block: the ports cleared, the block counted by its flags (R121). -/
def State.enter (s : State) (r : RawBlock) : State := enterBlock (r.block.getLsbD 7) (r.block.getLsbD 6) s

theorem enter_ctrlByte (s : State) (data : Word) (e c : Bool) (u l : BitVec 3) :
    s.enter ⟨data, ctrlByte e c u l⟩ = enterBlock e c s := by
  rw [State.enter, ctrlByte_error, ctrlByte_corrected]

theorem enter_untouched (s : State) (r : RawBlock) : Untouched [.stats, .updMask, .readOut] s (s.enter r) := enterBlock_untouched _ _ s

/-- The state after the expected block: the next block's (R123 to R126). -/
def DecodeState.next : DecodeState → DecodeState
  | .empty => .aReceived
  | .aReceived => .bReceived
  | .bReceived => .cReceived
  | .cReceived => .empty

/-- The accumulator with the expected block in its entry (R123 to R126). -/
def State.rawWith (s : State) (r : RawBlock) : Vector RawBlock 4 :=
  match s.decodeState with
  | .empty => #v[r, ⟨0, 0⟩, ⟨0, 0⟩, ⟨0, 0⟩]
  | .aReceived => #v[s.rdsDataRaw[0], r, s.rdsDataRaw[2], s.rdsDataRaw[3]]
  | .bReceived => #v[s.rdsDataRaw[0], s.rdsDataRaw[1], r, s.rdsDataRaw[3]]
  | .cReceived => #v[s.rdsDataRaw[0], s.rdsDataRaw[1], s.rdsDataRaw[2], r]

/-- The expected block stored and the assembler advanced (R123 to R126). -/
def State.store (s : State) (r : RawBlock) : State := { s with rdsDataRaw := s.rawWith r, decodeState := s.decodeState.next }

theorem store_untouched (s : State) (r : RawBlock) : Untouched [.rdsDataRaw, .decodeState] s (s.store r) := by
  intro k hk; cases k <;> first | exact absurd (by decide) hk | rfl

/-- A vector of four is its entries written out. -/
theorem vector_four_eq {α : Type} (v : Vector α 4) : v = #v[v[0], v[1], v[2], v[3]] := by
  ext k hk
  interval_cases k <;> rfl

theorem takeA_eq (r : RawBlock) (s : State) : takeA r s = if s.decodeState.expects .a then s.store r else groupError s := by
  cases hd : s.decodeState with
  | empty => rw [takeA_empty hd, State.store, State.rawWith, hd]; rfl
  | _ => exact takeA_other (by rw [hd]; decide) r

theorem takeB_eq (r : RawBlock) (s : State) : takeB r s = if s.decodeState.expects .b then s.store r else groupError s := by
  cases hd : s.decodeState with
  | aReceived =>
    rw [takeB_aReceived hd, vector_four_eq (s.rdsDataRaw.set 1 r), State.store, State.rawWith, hd]
    simp [DecodeState.expects, DecodeState.next]
  | _ => exact takeB_other (by rw [hd]; decide) r

/-- The labels C and C' are one to the assembler (R129). -/
theorem takeC_eq {l : Label} (hl : l = .c ∨ l = .cPrime) (r : RawBlock) (s : State) :
    takeC r s = if s.decodeState.expects l then s.store r else groupError s := by
  have hexpects : s.decodeState.expects l = s.decodeState.expects .c := by
    rcases hl with rfl | rfl <;> cases s.decodeState <;> rfl
  rw [hexpects]
  cases hd : s.decodeState with
  | bReceived =>
    rw [takeC_bReceived hd, vector_four_eq (s.rdsDataRaw.set 2 r), State.store, State.rawWith, hd]
    simp [DecodeState.expects, DecodeState.next]
  | _ => exact takeC_other (by rw [hd]; decide) r

/-! ### The three things a block does -/

/-- What a block does where its row answers a next state. -/
inductive BlockRun (r : RawBlock) (s : State) : State → Prop
  | error (h : s.decodeState.accepts r.block = false) : BlockRun r s (groupError (s.enter r))
  | stored (h : s.decodeState.accepts r.block = true) (hd : s.decodeState ≠ .cReceived) : BlockRun r s ((s.enter r).store r)
  | completed (hl : effectiveLabel r.block = some .d) (hd : s.decodeState = .cReceived) (i : Instr) (p : GroupBlocks)
      (h : encodeGroup i = some p) : BlockRun r s (afterGroup i p (storeD r (s.enter r)))

section
variable {e c : Bool} {u code : BitVec 3} {d : Word} {s t : State}

/-- A block without a label is a group error in every state (R122, R127). -/
theorem run_of_no_label (hl : effectiveLabel (ctrlByte e c u code) = none)
    (h : whenCreated s (fun s => groupError (enterBlock e c s)) = .next t) : BlockRun ⟨d, ctrlByte e c u code⟩ s t := by
  obtain ⟨-, rfl⟩ := whenCreated_eq_next h
  rw [← enter_ctrlByte s d e c u code]
  exact .error (accepts_of_no_label hl _)

/-- A block labelled A, B, C or C', whose row stores it where it is expected (R123 to R125, R127). -/
theorem run_of_label {l : Label} {take : State → State} (hl : effectiveLabel (ctrlByte e c u code) = some l) (hne : l ≠ .d)
    (htake : ∀ s, take s = if s.decodeState.expects l then s.store ⟨d, ctrlByte e c u code⟩ else groupError s)
    (h : whenCreated s (fun s => take (enterBlock e c s)) = .next t) : BlockRun ⟨d, ctrlByte e c u code⟩ s t := by
  obtain ⟨-, rfl⟩ := whenCreated_eq_next h
  have ha := accepts_of_label hl s.decodeState
  rw [← enter_ctrlByte s d e c u code, htake]
  show BlockRun _ s (if s.decodeState.expects l then _ else _)
  cases he : s.decodeState.expects l with
  | false => exact .error (ha.trans he)
  | true =>
    refine .stored (ha.trans he) fun hd => hne ?_
    rw [hd] at he
    exact beq_iff_eq.mp he

end

theorem afterGroup_of_exec {i : Instr} (hi : i.isGroup = true) {s t : State} (h : exec i s = .next t) :
    ∃ p, encodeGroup i = some p ∧ t = afterGroup i p s := by
  obtain ⟨p, hp⟩ := encodeGroup_of_isGroup hi
  rw [exec_group hp] at h
  obtain ⟨-, ht⟩ := whenCreated_eq_next h
  exact ⟨p, hp, ht⟩

/-- A block D completes a group in CReceived and is a group error elsewhere (R126, R127). -/
theorem exec_blkD_run {c : Bool} {u : BitVec 3} {d : Word} {s t : State} (h : exec (.blkD c u d) s = .next t) :
    BlockRun ⟨d, ctrlByte false c u 3⟩ s t := by
  have hl : effectiveLabel (ctrlByte false c u 3) = some .d := effectiveLabel_clean c u 3
  by_cases hd : s.decodeState = .cReceived
  · rw [exec_blkD_complete c u d hd] at h
    obtain ⟨p, hp, rfl⟩ := afterGroup_of_exec (decodeGroup_isGroup _) h
    rw [← enter_ctrlByte s d false c u 3] at hp ⊢
    exact .completed (r := ⟨d, ctrlByte false c u 3⟩) hl hd _ p hp
  · rw [exec_blkD_early c u d hd] at h
    obtain ⟨-, rfl⟩ := whenCreated_eq_next h
    rw [← enter_ctrlByte s d false c u 3]
    exact .error (by rw [accepts_of_label hl, expects_d, decide_eq_false hd])

/-- Everything a RAWBLOCK row can answer, by its block. -/
theorem exec_block_run {i : Instr} {r : RawBlock} (hi : encodeBlock i = some r) {s t : State} (h : exec i s = .next t) :
    BlockRun r s t := by
  cases i <;> cases hi
  case blkErr c u l d => exact run_of_no_label (effectiveLabel_error c u l) ((exec_blkErr c u l d s).symm.trans h)
  case blkA c u d => exact run_of_label (effectiveLabel_clean c u 0) (by decide) (takeA_eq _) ((exec_blkA c u d s).symm.trans h)
  case blkB c u d => exact run_of_label (effectiveLabel_clean c u 1) (by decide) (takeB_eq _) ((exec_blkB c u d s).symm.trans h)
  case blkC c u d =>
    exact run_of_label (effectiveLabel_clean c u 2) (by decide) (takeC_eq (.inl rfl) _) ((exec_blkC c u d s).symm.trans h)
  case blkD c u d => exact exec_blkD_run h
  case blkCp c u d =>
    exact run_of_label (effectiveLabel_clean c u 4) (by decide) (takeC_eq (.inr rfl) _) ((exec_blkCp c u d s).symm.trans h)
  case blkX5 c u d => exact run_of_no_label (effectiveLabel_clean c u 5) ((exec_blkX5 c u d s).symm.trans h)
  case blkX6 c u d => exact run_of_no_label (effectiveLabel_clean c u 6) ((exec_blkX6 c u d s).symm.trans h)
  case blkX7 c u d => exact run_of_no_label (effectiveLabel_clean c u 7) ((exec_blkX7 c u d s).symm.trans h)

/-- In an instance a block's row answers, and does one of the three. -/
theorem exec_block_runs {i : Instr} {r : RawBlock} (hi : encodeBlock i = some r) {s : State} (hc : s.created = true) :
    ∃ t, exec i s = .next t ∧ BlockRun r s t := by
  obtain ⟨t, ht⟩ := exec_block_next (isBlock_of_encodeBlock hi) hc
  exact ⟨t, ht, exec_block_run hi ht⟩

/-- `ADD` of a block answers, and does one of the three (R314). -/
theorem exec_add_runs (data : Word) (block : Byte) {s : State} (hc : s.created = true) :
    ∃ t, exec (.add data block) s = .next t ∧ BlockRun ⟨data, block⟩ s t := by
  rw [exec_add]
  exact exec_block_runs (encodeBlock_decodeBlock _) hc

end Sys2Proof.Machine
end

section
/-! The statements about the assembler (R120 to R128), each by the three things a block does. -/

namespace Sys2Proof.Machine

/-! ### The statistics -/

/-- Of the statistics a GROUP row writes the counter of its type only (R147). -/
theorem afterGroup_stats (i : Instr) (p : GroupBlocks) (s : State) :
    (afterGroup i p s).stats = (countGroupType (Group.ofBlocks p).groupId s).stats := by
  rw [afterGroup, rowDecoder_stats, commonExtractors_eq]
  rfl

theorem afterGroup_decodeState (i : Instr) (p : GroupBlocks) (s : State) : (afterGroup i p s).decodeState = s.decodeState :=
  (afterGroup_untouched i p s .decodeState (by cases i <;> (dsimp only [commonTouched, rowTouched]; decide))).symm

/-- A completed group is counted once by its type (R147). -/
theorem afterGroup_groupTypeSum (i : Instr) (p : GroupBlocks) (s : State) :
    groupTypeSum (afterGroup i p s).stats.groupTypeCnt = groupTypeSum s.stats.groupTypeCnt + 1 := by
  rw [afterGroup_stats]
  exact groupTypeSum_count s.stats.groupTypeCnt _ _

theorem count_if (b : Bool) (x : Counter) : (if b then count x else x) = x + if b then 1 else 0 := by
  cases b
  · exact (BitVec.add_zero x).symm
  · rfl

/-- The counters of a block's entry, whatever becomes of the block (R121). -/
theorem BlockRun.counters {r : RawBlock} {s t : State} (h : BlockRun r s t) :
    t.stats.blockCnt = (s.enter r).stats.blockCnt ∧ t.stats.blockErrorCnt = (s.enter r).stats.blockErrorCnt
      ∧ t.stats.blockCorrectedCnt = (s.enter r).stats.blockCorrectedCnt := by
  cases h with
  | error | stored => exact ⟨rfl, rfl, rfl⟩
  | completed _ _ i p => rw [afterGroup_stats]; exact ⟨rfl, rfl, rfl⟩

/-- Settles O15: a block counts at its entry, and nothing after it does. -/
theorem countersAtEntryOfABlock : Obligations.CountersAtEntryOfABlock := by
  unfold Obligations.CountersAtEntryOfABlock
  intro i r s hi hc
  have hrun : ∃ t, exec i s = .next t ∧ BlockRun r s t := by
    rcases hi with hi | rfl
    · exact exec_block_runs hi hc
    · exact exec_add_runs r.data r.block hc
  obtain ⟨t, ht, hr⟩ := hrun
  obtain ⟨hcnt, herror, hcorrected⟩ := hr.counters
  exact ⟨t, ht, hcnt, herror.trans (count_if _ _), hcorrected.trans (count_if _ _)⟩

/-! ### The transitions -/

/-- Settles O16: an accepted block is no error, and outside CReceived it completes nothing, so it is stored. -/
theorem expectedBlockIsStored : Obligations.ExpectedBlockIsStored := by
  unfold Obligations.ExpectedBlockIsStored
  intro i r s hi hc ha hd
  obtain ⟨t, ht, hr⟩ := exec_block_runs hi hc
  refine ⟨t, ht, ?_⟩
  cases hr with
  | error h => rw [h] at ha; cases ha
  | completed _ h => exact absurd h hd
  | stored =>
    refine ⟨rfl, rfl, ?_, rfl, rfl, rfl, ((enter_untouched s r).trans (store_untouched _ r)).mono (by decide)⟩
    have hstate : ((s.enter r).store r).decodeState = s.decodeState.next := rfl
    have hraw : ((s.enter r).store r).rdsDataRaw = s.rawWith r := rfl
    rw [hstate, hraw, State.rawWith]
    cases h : s.decodeState with
    | cReceived => exact hd h
    | _ => exact ⟨rfl, rfl⟩

/-- Settles O17: a block that is not accepted is neither stored nor completes a group. -/
theorem unexpectedBlockIsAGroupError : Obligations.UnexpectedBlockIsAGroupError := by
  unfold Obligations.UnexpectedBlockIsAGroupError
  intro i r s hi hc ha
  obtain ⟨t, ht, hr⟩ := exec_block_runs hi hc
  refine ⟨t, ht, ?_⟩
  cases hr with
  | error =>
    exact ⟨rfl, rfl, rfl, rfl, rfl, rfl, ((enter_untouched s r).trans (groupError_untouched _)).mono (by decide)⟩
  | stored h => rw [h] at ha; cases ha
  | completed hl hd => rw [accepts_of_label hl, hd] at ha; cases ha

/-- The state in which the group that a clean block D completes is decoded: the block counted, stored as entry 3, the assembler empty and
the group counted (R121, R126). -/
def State.completedBy (s : State) (corrected : Bool) (r : RawBlock) : State :=
  { s with
    rdsDataRaw := #v[s.rdsDataRaw[0], s.rdsDataRaw[1], s.rdsDataRaw[2], r]
    decodeState := .empty
    stats := { s.stats with
      blockCnt := s.stats.blockCnt + 1
      blockCorrectedCnt := s.stats.blockCorrectedCnt + (if corrected then 1 else 0)
      groupCnt := s.stats.groupCnt + 1 }
    updMask := 0
    readOut := none }

theorem storeD_enterBlock (s : State) (c : Bool) (r : RawBlock) : storeD r (enterBlock false c s) = s.completedBy c r := by
  have hraw : s.rdsDataRaw.set 3 r = #v[s.rdsDataRaw[0], s.rdsDataRaw[1], s.rdsDataRaw[2], r] := by
    rw [vector_four_eq (s.rdsDataRaw.set 3 r)]
    simp
  rw [State.completedBy, ← hraw, ← count_if]
  rfl

/-- Settles O18: block D's row is that of the group, over the stored and counted block. -/
theorem blockDRunsTheGroupRow : Obligations.BlockDRunsTheGroupRow := by
  unfold Obligations.BlockDRunsTheGroupRow
  intro c u d s hc hd
  refine ⟨exec_block_next rfl hc, ?_⟩
  rw [exec_blkD_complete c u d hd, storeD_enterBlock]
  rfl

/-! ### The accounting -/

theorem DecodeState.taken_next {d : DecodeState} (h : d ≠ .cReceived) : d.next.taken = d.taken + 1 := by
  cases d with
  | cReceived => exact absurd rfl h
  | _ => rfl

theorem DecodeState.taken_eq_zero_iff (d : DecodeState) : d.taken = 0 ↔ d = .empty := by cases d <;> decide

/-- Settles O19: a group error counts itself, a stored block is one more taken, and a completed group is worth the four taken. -/
theorem blocksAreAccountedFor : Obligations.BlocksAreAccountedFor := by
  unfold Obligations.BlocksAreAccountedFor
  intro data block s hc
  obtain ⟨t, ht, hr⟩ := exec_add_runs data block hc
  refine ⟨t, ht, ?_⟩
  cases hr with
  | error =>
    have htaken : (groupError (s.enter ⟨data, block⟩)).decodeState.taken = 0 := rfl
    refine ⟨0, 1, (BitVec.add_zero _).symm, rfl, (BitVec.add_zero _).symm, ?_⟩
    rw [htaken, ← s.decodeState.taken_eq_zero_iff]
    omega
  | stored _ hd =>
    have htaken : ((s.enter ⟨data, block⟩).store ⟨data, block⟩).decodeState.taken = s.decodeState.taken + 1 :=
      DecodeState.taken_next hd
    refine ⟨0, 0, (BitVec.add_zero _).symm, (BitVec.add_zero _).symm, (BitVec.add_zero _).symm, ?_⟩
    rw [htaken]
    omega
  | completed _ hd i p =>
    refine ⟨1, 0, ?_, ?_, afterGroup_groupTypeSum i p _, ?_⟩
    · rw [afterGroup_stats]; rfl
    · rw [afterGroup_stats]; exact (BitVec.add_zero _).symm
    · have htaken : (storeD ⟨data, block⟩ (s.enter ⟨data, block⟩)).decodeState.taken = 0 := rfl
      rw [afterGroup_decodeState, htaken, hd]
      simp [DecodeState.taken]

/-! ### The mask -/

/-- Settles O20: only a completed group leaves a mask, and it needs block D in CReceived. -/
theorem maskIsZeroUnlessAGroupCompletes : Obligations.MaskIsZeroUnlessAGroupCompletes := by
  unfold Obligations.MaskIsZeroUnlessAGroupCompletes
  intro data block s t h hn
  rw [exec_add] at h
  cases exec_block_run (encodeBlock_decodeBlock _) h with
  | error | stored => rfl
  | completed hl hd => exact hn.elim (absurd hd) (absurd hl)

end Sys2Proof.Machine
end

section
/-! The common extractors as a whole GROUP row shows them (R140 to R147): the registers and the three bits they write are no row
decoder's, so they stand after the row as the extractors left them. -/

namespace Sys2Proof.Machine

/-! ### The validation buffer (R141) -/

theorem accepts_iff {w : Nat} {pub stg x : BitVec w} : accepts pub stg x = true ↔ x = stg ∧ x ≠ pub := by
  simp [accepts]

/-- A field whose public value and bits follow the accept test of the buffer. -/
theorem Observed.of_accepts {w : Nat} {f : Field} {x stg pub pub' : BitVec w} {s t : State}
    (hp : pub' = if accepts pub stg x then x else pub) (hv : t.isValid f = (s.isValid f || accepts pub stg x))
    (hr : t.raised f = accepts pub stg x) : Observed f x stg pub pub' s t := by
  unfold Observed
  split
  · have ha : accepts pub stg x = true := accepts_iff.mpr ‹_›
    rw [hp, hv, hr, ha]
    exact ⟨rfl, Bool.or_true _, rfl⟩
  · have ha : accepts pub stg x = false := Bool.eq_false_iff.mpr fun h => ‹¬_› (accepts_iff.mp h)
    rw [hp, hv, hr, ha]
    exact ⟨rfl, Bool.or_false _, rfl⟩

/-! ### What the extractors write -/

/-- The state in which the decoder of a completed group starts (R140). -/
def State.extracted (p : GroupBlocks) (s : State) : State :=
  commonExtractors (Group.ofBlocks p) (p.b.getLsbD 10) (p.b.extractLsb' 5 5) s.clearOutputs

theorem State.extracted_eq (p : GroupBlocks) (s : State) :
    s.extracted p = { s with
      newPi := p.a
      pi := if accepts s.pi s.newPi p.a then p.a else s.pi
      newPty := p.b.extractLsb' 5 5
      pty := if accepts s.pty s.newPty (p.b.extractLsb' 5 5) then p.b.extractLsb' 5 5 else s.pty
      tp := p.b.getLsbD 10
      rdsGroup := Group.ofBlocks p
      stats := (countGroupType (p.b.extractLsb' 12 4) s).stats
      validFields := s.validFields ||| commonValid (Group.ofBlocks p) (p.b.extractLsb' 5 5) s
      updMask := commonMask (Group.ofBlocks p) (p.b.getLsbD 10) (p.b.extractLsb' 5 5) s
      readOut := none } := by
  have hmask (m : Mask) : s.clearOutputs.updMask ||| m = m := BitVec.zero_or
  unfold State.extracted
  rw [commonExtractors_eq, hmask]
  rfl

theorem extracted_untouched (p : GroupBlocks) (s : State) : Untouched commonTouched s (s.extracted p) :=
  ((clearOutputs_untouched s).trans (commonExtractors_untouched _ _ _ _)).mono (by decide)

theorem getLsbD_commonValid (g : Group) (pty : BitVec 5) (s : State) (k : Nat) :
    (commonValid g pty s).getLsbD k = (accepts s.pi s.newPi g.pi && decide (Field.pi.pos = k) || decide (Field.tp.pos = k)
      || accepts s.pty s.newPty pty && decide (Field.pty.pos = k)) := by
  unfold commonValid
  rw [BitVec.getLsbD_or, BitVec.getLsbD_or, getLsbD_maskIf, getLsbD_maskIf, Field.getLsbD_mask]

theorem extracted_isValid (p : GroupBlocks) (s : State) (f : Field) :
    (s.extracted p).isValid f
      = (s.isValid f || (commonValid (Group.ofBlocks p) (p.b.extractLsb' 5 5) s).getLsbD f.pos) := by
  rw [State.extracted_eq]; exact BitVec.getLsbD_or

theorem extracted_raised (p : GroupBlocks) (s : State) (f : Field) :
    (s.extracted p).raised f = (commonMask (Group.ofBlocks p) (p.b.getLsbD 10) (p.b.extractLsb' 5 5) s).getLsbD f.pos := by
  rw [State.extracted_eq]; rfl

/-- The mask of the extractors has no other bit than theirs. -/
theorem extracted_raised_other (p : GroupBlocks) (s : State) {f : Field} (hf : f ∉ commonBits) : (s.extracted p).raised f = false := by
  have hb := commonExtractors_bits (Group.ofBlocks p) (p.b.getLsbD 10) (p.b.extractLsb' 5 5) s.clearOutputs f.pos fun g m e =>
    hf (Field.pos_inj e ▸ m)
  exact hb.2.trans BitVec.getLsbD_zero

/-! ### What of it a row leaves alone -/

/-- The registers that the decoder of no row writes (R148). -/
def undecodedRegisters : List Component :=
  [.pi, .newPi, .pty, .newPty, .tp, .rdsGroup, .stats, .isRbds, .decodeState, .rdsDataRaw, .readOut, .pending, .created]

theorem undecodedRegisters_notMem_rowTouched (i : Instr) : ∀ c ∈ undecodedRegisters, c ∉ rowTouched i ++ [.validFields, .updMask] := by
  cases i <;> (dsimp only [rowTouched]; decide)

theorem extracted_same_afterGroup (i : Instr) (p : GroupBlocks) (s : State) {c : Component} (hc : c ∈ undecodedRegisters) :
    c.same (s.extracted p) (afterGroup i p s) := rowDecoder_untouched i p _ c (undecodedRegisters_notMem_rowTouched i c hc)

/-- The three bits of the extractors are as they left them. -/
theorem afterGroup_commonBits (i : Instr) (p : GroupBlocks) (s : State) {f : Field} (hf : f ∈ commonBits) :
    (afterGroup i p s).isValid f = (s.extracted p).isValid f ∧ (afterGroup i p s).raised f = (s.extracted p).raised f :=
  rowDecoder_bits i p _ f.pos fun _ m e => commonBits_notMem_rowBits i f hf (Field.pos_inj e ▸ m)

/-! ### PI and PTY -/

theorem afterGroup_newPi (i : Instr) (p : GroupBlocks) (s : State) : (afterGroup i p s).newPi = p.a := by
  have h : (s.extracted p).newPi = (afterGroup i p s).newPi := extracted_same_afterGroup i p s (c := .newPi) (by decide)
  rw [← h, State.extracted_eq]

theorem afterGroup_newPty (i : Instr) (p : GroupBlocks) (s : State) : (afterGroup i p s).newPty = p.b.extractLsb' 5 5 := by
  have h : (s.extracted p).newPty = (afterGroup i p s).newPty := extracted_same_afterGroup i p s (c := .newPty) (by decide)
  rw [← h, State.extracted_eq]

theorem afterGroup_observes_pi (i : Instr) (p : GroupBlocks) (s : State) :
    Observed .pi p.a s.newPi s.pi (afterGroup i p s).pi s (afterGroup i p s) := by
  have hpi : (s.extracted p).pi = (afterGroup i p s).pi := extracted_same_afterGroup i p s (c := .pi) (by decide)
  obtain ⟨hv, hr⟩ := afterGroup_commonBits i p s (f := .pi) (by decide)
  refine .of_accepts ?_ ?_ ?_
  · rw [← hpi, State.extracted_eq]
  · rw [hv, extracted_isValid, getLsbD_commonValid]
    simp [Field.pos, Group.ofBlocks, groupRecord]
  · rw [hr, extracted_raised, getLsbD_commonMask]
    simp [Field.pos, Group.ofBlocks, groupRecord]

theorem afterGroup_observes_pty (i : Instr) (p : GroupBlocks) (s : State) :
    Observed .pty (p.b.extractLsb' 5 5) s.newPty s.pty (afterGroup i p s).pty s (afterGroup i p s) := by
  have hpty : (s.extracted p).pty = (afterGroup i p s).pty := extracted_same_afterGroup i p s (c := .pty) (by decide)
  obtain ⟨hv, hr⟩ := afterGroup_commonBits i p s (f := .pty) (by decide)
  refine .of_accepts ?_ ?_ ?_
  · rw [← hpty, State.extracted_eq]
  · rw [hv, extracted_isValid, getLsbD_commonValid]
    simp [Field.pos]
  · rw [hr, extracted_raised, getLsbD_commonMask]
    simp [Field.pos]

/-- Settles O22: the extractors observe PI and PTY, and no row's decoder writes their registers or their bits. -/
theorem piAndPtyAreAcceptedTwice : Obligations.PiAndPtyAreAcceptedTwice := by
  unfold Obligations.PiAndPtyAreAcceptedTwice
  intro i p s he hc
  exact ⟨afterGroup i p s, exec_group_next he hc, afterGroup_newPi i p s, afterGroup_observes_pi i p s,
    afterGroup_newPty i p s, afterGroup_observes_pty i p s⟩

/-! ### TP, the Group record and the counter -/

theorem afterGroup_publishes_tp (i : Instr) (p : GroupBlocks) (s : State) :
    Published .tp (p.b.getLsbD 10 != s.tp) (afterGroup i p s) := by
  obtain ⟨hv, hr⟩ := afterGroup_commonBits i p s (f := .tp) (by decide)
  constructor
  · rw [hv, extracted_isValid, getLsbD_commonValid]
    simp
  · rw [hr, extracted_raised, getLsbD_commonMask]
    simp [Field.pos]

/-- The counter of the group's type is one higher, and no other is (R147). -/
theorem afterGroup_groupTypeCnt (i : Instr) (p : GroupBlocks) (s : State) (k : Fin 16) :
    (afterGroup i p s).stats.groupTypeCnt[k] = s.stats.groupTypeCnt[k] + (if k.val = gidOf p then 1 else 0) := by
  have hg : gidOf p < 16 := (p.b.extractLsb' 12 4).isLt
  have hset : (afterGroup i p s).stats.groupTypeCnt[k]
      = if gidOf p = k.val then count (s.stats.groupTypeCnt[gidOf p]'hg) else s.stats.groupTypeCnt[k] := by
    rw [afterGroup_stats]; exact Vector.getElem_set hg k.isLt
  rw [hset]
  by_cases h : gidOf p = k.val
  · simp [h, count]
  · simp [h, Ne.symm h]

/-- Settles O23: what the extractors write stands after the row, and neither writes the assembler, the input or another counter. -/
theorem tpRecordAndCounterOfEveryGroup : Obligations.TpRecordAndCounterOfEveryGroup := by
  unfold Obligations.TpRecordAndCounterOfEveryGroup
  intro i p s he hc
  have kept {c : Component} (h : c ∈ undecodedRegisters) : c.same (s.extracted p) (afterGroup i p s) :=
    extracted_same_afterGroup i p s h
  have untouched {c : Component} (h : c ∈ undecodedRegisters) (hn : c ∉ commonTouched) : c.same s (afterGroup i p s) :=
    Component.same_trans (extracted_untouched p s c hn) (kept h)
  have htp : (s.extracted p).tp = (afterGroup i p s).tp := kept (c := .tp) (by decide)
  have hrec : (s.extracted p).rdsGroup = (afterGroup i p s).rdsGroup := kept (c := .rdsGroup) (by decide)
  have hread : (s.extracted p).readOut = (afterGroup i p s).readOut := kept (c := .readOut) (by decide)
  rw [State.extracted_eq] at htp hrec hread
  refine ⟨afterGroup i p s, exec_group_next he hc, htp.symm, afterGroup_publishes_tp i p s, hrec.symm, afterGroup_groupTypeCnt i p s,
    ?_, ?_, ?_, ?_, ?_, (untouched (c := .isRbds) (by decide) (by decide)).symm,
    (untouched (c := .decodeState) (by decide) (by decide)).symm, (untouched (c := .rdsDataRaw) (by decide) (by decide)).symm,
    hread.symm, (untouched (c := .pending) (by decide) (by decide)).symm,
    (untouched (c := .created) (by decide) (by decide)).symm.trans hc⟩ <;>
  · rw [afterGroup_stats]; rfl

end Sys2Proof.Machine
end

section
/-! The third reception of a group (R150): after two receptions in a row the public values under the two-reception rule stand where the
group puts them, so a third changes none of them and raises none of their bits. -/

namespace Sys2Proof.Machine

/-! ### Settled values -/

/-- After a candidate that was staged before, the public value is the candidate. -/
theorem Observed.public_eq {w : Nat} {f : Field} {x pub pub' : BitVec w} {s t : State} (h : Observed f x x pub pub' s t) :
    pub' = x := by
  unfold Observed at h
  split at h
  · exact h.1
  · rename_i hn
    exact h.1.trans (not_not.mp fun hne => hn ⟨rfl, Ne.symm hne⟩)

/-- A candidate observed twice in a row is not accepted a third time. -/
theorem Observed.third_not_raised {w : Nat} {f : Field} {x stg pub pub' pub'' : BitVec w} {s t t' u : State}
    (h : Observed f x x pub pub' s t) (h' : Observed f x stg pub' pub'' t' u) : u.raised f = false := by
  rw [h.public_eq] at h'
  unfold Observed at h'
  rw [if_neg fun hn => hn.2 rfl] at h'
  exact h'.2.2

/-- A third run of the operation in a row, with the common extractors in between, does not change the field's public value. -/
def Settles (f : Field) (d : State → State) : Prop :=
  ∀ s t u, Untouched commonTouched (d s) t → Untouched commonTouched (d t) u → f.sameValue u (d u)

/-- The two-reception rule (R150): each run stages `x`, and one that finds it staged sets the public value by an idempotent `w`. -/
theorem Settles.of_staged {α β : Type} [DecidableEq α] {f : Field} {d : State → State} (stg : State → α) (val : State → β)
    (x : α) (w : β → β) (hw : ∀ v, w (w v) = w v) (hstg : ∀ s, stg (d s) = x)
    (hval : ∀ s, val (d s) = if x = stg s then w (val s) else val s)
    (hframe : ∀ s t, Untouched commonTouched s t → stg s = stg t ∧ val s = val t)
    (hf : ∀ s t, val s = val t → f.sameValue s t) : Settles f d := fun s t u hst htu => by
  have ht : x = stg t := (hstg s).symm.trans (hframe _ _ hst).1
  have hu : x = stg u := (hstg t).symm.trans (hframe _ _ htu).1
  have hv : val u = w (val t) := (hframe _ _ htu).2.symm.trans ((hval t).trans (if_pos ht))
  apply hf
  rw [hval u, if_pos hu, hv, hw]

/-- Acceptance differs from a mere repetition only where the public value is the candidate already. -/
theorem ite_accepts {w : Nat} (pub stg x : BitVec w) : (if accepts pub stg x then x else pub) = if x = stg then x else pub := by
  by_cases hp : x = pub
  · rw [hp, ite_self, ite_self]
  · simp only [accepts_iff, hp, ne_eq, not_false_eq_true, and_true]

theorem observeEcc_settles (x : Byte) : Settles .ecc (observeEcc x) :=
  .of_staged State.newEcc State.ecc x (fun _ => x) (fun _ => rfl) (fun s => by rw [observeEcc_eq])
    (fun s => by rw [observeEcc_eq]; exact ite_accepts _ _ _) (fun _ _ h => ⟨h .newEcc (by decide), h .ecc (by decide)⟩) fun _ _ h => h

theorem observeLc_settles (x : Byte) : Settles .lc (observeLc x) :=
  .of_staged State.newLc State.lc x (fun _ => x) (fun _ => rfl) (fun s => by rw [observeLc_eq])
    (fun s => by rw [observeLc_eq]; exact ite_accepts _ _ _) (fun _ _ h => ⟨h .newLc (by decide), h .lc (by decide)⟩) fun _ _ h => h

theorem observeMjd_settles (mjd : BitVec 17) (v : CivilTime) : Settles .time (observeMjd mjd v) :=
  .of_staged State.newMjd State.time mjd (fun _ => v) (fun _ => rfl) (fun s => by rw [observeMjd_eq])
    (fun s => by rw [observeMjd_eq]) (fun _ _ h => ⟨h .newMjd (by decide), h .time (by decide)⟩) fun _ _ h => h

/-- The staged group and the parameters after a staged group that sets them by `w` (R223). -/
theorem stageTmcSys_registers (w : TmcSys → TmcSys) (g : Group) (s : State) :
    (stageTmcSys g (fun s => setTmcSys (w s.tmcSys) s) s).prevTmcSysGroup = g
      ∧ (stageTmcSys g (fun s => setTmcSys (w s.tmcSys) s) s).tmcSys = if g = s.prevTmcSysGroup then w s.tmcSys else s.tmcSys := by
  by_cases hg : g = s.prevTmcSysGroup
  · rw [stageTmcSys_hit hg, setTmcSys_eq, if_pos hg]
    exact ⟨rfl, rfl⟩
  · rw [stageTmcSys_miss hg, if_neg hg]
    exact ⟨rfl, rfl⟩

theorem stageTmcSys_settles {w : TmcSys → TmcSys} (hw : ∀ v, w (w v) = w v) (g : Group) (gid : BitVec 4) (ver : Version) (aid : Word) :
    Settles .tmcSys fun s => stageTmcSys g (fun s => setTmcSys (w s.tmcSys) s) (updateOda gid ver aid s) :=
  .of_staged State.prevTmcSysGroup State.tmcSys g w hw (fun s => (stageTmcSys_registers w g _).1)
    (fun s => by rw [(stageTmcSys_registers w g _).2, updateOda_eq])
    (fun _ _ h => ⟨h .prevTmcSysGroup (by decide), h .tmcSys (by decide)⟩) fun _ _ h => h

/-- The parameters with those of variant 0 set (R224). -/
def TmcSys.setVariant0 (ltn : BitVec 6) (afi enhancedMode : Bool) (mgs : BitVec 4) (v : TmcSys) : TmcSys :=
  { v with ltn := ltn, afi := afi, enhancedMode := enhancedMode, mgs := mgs }

/-- The parameters with those of variant 1 set (R225). -/
def TmcSys.setVariant1 (gap : BitVec 2) (sid : BitVec 6) (tA tW tD : BitVec 2) (v : TmcSys) : TmcSys :=
  if v.enhancedMode then { v with gap := gap, sid := sid, tA := tA, tW := tW, tD := tD } else { v with gap := gap, sid := sid }

theorem tmcSys0_eq (ltn : BitVec 6) (afi enhancedMode : Bool) (mgs : BitVec 4) :
    tmcSys0 ltn afi enhancedMode mgs = fun s => setTmcSys (s.tmcSys.setVariant0 ltn afi enhancedMode mgs) s := rfl

theorem tmcSys1_eq (gap : BitVec 2) (sid : BitVec 6) (tA tW tD : BitVec 2) :
    tmcSys1 gap sid tA tW tD = fun s => setTmcSys (s.tmcSys.setVariant1 gap sid tA tW tD) s := rfl

theorem TmcSys.setVariant0_idem (ltn : BitVec 6) (afi enhancedMode : Bool) (mgs : BitVec 4) (v : TmcSys) :
    (v.setVariant0 ltn afi enhancedMode mgs).setVariant0 ltn afi enhancedMode mgs = v.setVariant0 ltn afi enhancedMode mgs := rfl

theorem TmcSys.setVariant1_idem (gap : BitVec 2) (sid : BitVec 6) (tA tW tD : BitVec 2) (v : TmcSys) :
    (v.setVariant1 gap sid tA tW tD).setVariant1 gap sid tA tW tD = v.setVariant1 gap sid tA tW tD := by
  cases h : v.enhancedMode <;> simp [TmcSys.setVariant1, h]

/-! ### The TMC gate (R261): of three receptions in a row two pass at most, the first and the third -/

/-- A second run of the operation, with the common extractors and the gate in between, publishes nothing new. -/
def PublishesOnce (f : State → State) : Prop :=
  ∀ s t, Untouched (commonTouched ++ [.prevTmcGroup, .prevTmcArmed]) (f s) t → (f t).tmcMsg = t.tmcMsg

theorem tmcGate_settles {cs : List Component} {f : State → State} (hu : ∀ s, Untouched cs s (f s)) (ha : .prevTmcArmed ∉ cs)
    (hf : PublishesOnce f) (g : Group) : Settles .tmcSg (tmcGate g f) := fun s t u hst htu => by
  show u.tmcMsg = (tmcGate g f u).tmcMsg
  have disarmed (s : State) : (f { s with prevTmcArmed := false }).prevTmcArmed = false := (hu _ .prevTmcArmed ha).symm
  by_cases hs : s.prevTmcArmed = true ∧ g = s.prevTmcGroup
  · -- the first reception passes, the second arms the gate again, and the third repeats what the first did
    rw [tmcGate_hit hs] at hst
    have ht : t.prevTmcArmed = false := (hst .prevTmcArmed (by decide)).symm.trans (disarmed s)
    rw [tmcGate_miss (by simp [ht])] at htu
    have harm : Untouched [.prevTmcGroup, .prevTmcArmed] t { t with prevTmcGroup := g, prevTmcArmed := true } := by
      intro c hc; cases c <;> first | exact absurd (by decide) hc | rfl
    have hdis : Untouched [.prevTmcArmed] u { u with prevTmcArmed := false } := by
      intro c hc; cases c <;> first | exact absurd (by decide) hc | rfl
    have hu' : u.prevTmcArmed = true ∧ g = u.prevTmcGroup := ⟨(htu .prevTmcArmed (by decide)).symm, htu .prevTmcGroup (by decide)⟩
    rw [tmcGate_hit hu']
    exact (hf _ _ ((((hst.trans harm).trans htu).trans hdis).mono (by decide))).symm
  · -- the first reception arms the gate, the second passes and disarms it, and the third is held back
    rw [tmcGate_miss hs] at hst
    have ht : t.prevTmcArmed = true ∧ g = t.prevTmcGroup := ⟨(hst .prevTmcArmed (by decide)).symm, hst .prevTmcGroup (by decide)⟩
    rw [tmcGate_hit ht] at htu
    have hu' : u.prevTmcArmed = false := (htu .prevTmcArmed (by decide)).symm.trans (disarmed t)
    rw [tmcGate_miss (by simp [hu'])]

theorem publishSingle_publishesOnce (v : TmcPending) : PublishesOnce (publishSingle v) := fun s t h => by
  have ht : (publishSingle v s).tmcMsg = t.tmcMsg := h .tmcMsg (by decide)
  rw [publishSingle_eq] at ht ⊢
  exact ht

theorem publishIfLast_untouched (gsi : BitVec 2) (s : State) : Untouched [.tmcMsg, .validFields, .updMask] s (publishIfLast gsi s) := by
  unfold publishIfLast
  split
  · exact publishMulti_untouched s
  · exact Untouched.refl _ s

theorem publishIfLast_tmcMsg (gsi : BitVec 2) (s : State) :
    (publishIfLast gsi s).tmcMsg = if gsi = 0 then s.assembled else s.tmcMsg := by
  unfold publishIfLast
  split
  · rw [publishMulti_eq]
  · rfl

theorem secondMulti_publishesOnce (ci : BitVec 3) (gsi : BitVec 2) (window : BitVec 28) : PublishesOnce (secondMulti ci gsi window) :=
  fun s t h => by
  by_cases hs : ci = s.continuityId
  · rw [secondMulti_accept hs] at h
    have hp := publishIfLast_untouched gsi (s.storeSecond gsi window)
    have hci : s.continuityId = t.continuityId := (hp .continuityId (by decide)).trans (h .continuityId (by decide))
    have hmsg : (s.storeSecond gsi window).newTmcMsg = t.newTmcMsg := (hp .newTmcMsg (by decide)).trans (h .newTmcMsg (by decide))
    have hopt : (s.storeSecond gsi window).optionalTmc = t.optionalTmc :=
      (hp .optionalTmc (by decide)).trans (h .optionalTmc (by decide))
    have hpub : (publishIfLast gsi (s.storeSecond gsi window)).tmcMsg = t.tmcMsg := h .tmcMsg (by decide)
    have hsame : (t.storeSecond gsi window).assembled = (s.storeSecond gsi window).assembled := by
      unfold State.assembled State.storeSecond
      rw [← hmsg, ← hopt]
      simp [State.storeSecond]
    rw [publishIfLast_tmcMsg] at hpub
    rw [secondMulti_accept (hs.trans hci), publishIfLast_tmcMsg, hsame]
    by_cases hlast : gsi = 0
    · rw [if_pos hlast] at hpub ⊢
      exact hpub
    · rw [if_neg hlast]
      rfl
  · rw [secondMulti_reject hs] at h
    have hci : s.continuityId = t.continuityId := h .continuityId (by decide)
    rw [secondMulti_reject (hci ▸ hs)]

/-- A subsequent group that was accepted is no longer the next one (R268), so it is not accepted again. -/
theorem nextMulti_publishesOnce (ci : BitVec 3) (gsi : BitVec 2) (window : BitVec 28) : PublishesOnce (nextMulti ci gsi window) :=
  fun s t h => by
  have ht : ¬t.takesNext ci gsi := by
    rintro ⟨hlen, hci, hseq, hgsi⟩
    by_cases hs : s.takesNext ci gsi
    · rw [nextMulti_accept hs] at h
      have hseq' : gsi = t.grpSeqId := (publishIfLast_untouched gsi _ .grpSeqId (by decide)).trans (h .grpSeqId (by decide))
      rw [← hseq'] at hseq hgsi
      omega
    · rw [nextMulti_reject hs] at h
      have hlen' : s.newTmcMsg = t.newTmcMsg := h .newTmcMsg (by decide)
      have hci' : s.continuityId = t.continuityId := h .continuityId (by decide)
      have hseq' : s.grpSeqId = t.grpSeqId := h .grpSeqId (by decide)
      exact hs ⟨hlen' ▸ hlen, hci' ▸ hci, hseq' ▸ hseq, hseq' ▸ hgsi⟩
  rw [nextMulti_reject ht]

/-! ### Bits that stay low -/

/-- A third run of the operation in a row, from a mask with the common extractors' bits only, does not raise the field's bit. -/
def QuietThird (f : Field) (d : State → State) : Prop :=
  ∀ s t u, Untouched commonTouched (d s) t → Untouched commonTouched (d t) u → (∀ g, g ∉ commonBits → u.raised g = false) →
    (d u).raised f = false

theorem QuietThird.of_bits {f : Field} {fs : List Field} {d : State → State} (hd : ∀ s, BitsKept fs s (d s)) (hf : f ∉ fs)
    (hc : f ∉ commonBits) : QuietThird f d := fun _ _ u _ _ hu =>
  ((hd u) f.pos fun _ m e => hf (Field.pos_inj e ▸ m)).2.trans (hu f hc)

/-- A bit that reports the change of its field. -/
theorem Settles.quietThird {f : Field} {d : State → State} (h : Settles f d) (hr : ∀ s, Reports f s (d s)) (hc : f ∉ commonBits) :
    QuietThird f d := fun s t u hst htu hu =>
  Bool.eq_false_iff.mpr fun hraised => ((hr u).mp hraised).elim (Bool.eq_false_iff.mp (hu f hc)) fun hv => hv (h s t u hst htu)

theorem stageTmcSys_quietThird {w : TmcSys → TmcSys} (hw : ∀ v, w (w v) = w v) (g : Group) (gid : BitVec 4) (ver : Version)
    (aid : Word) : QuietThird .tmcSys fun s => stageTmcSys g (fun s => setTmcSys (w s.tmcSys) s) (updateOda gid ver aid s) :=
  (stageTmcSys_settles hw g gid ver aid).quietThird (fun s => Sound.reports
    ((updateOda_sound gid ver aid s).trans (stageTmcSys_sound (fun _ => setTmcSys_sound _ _) g _) (by decide)) rfl) (by decide)

/-- The two bits that report the change of the TMC message. -/
theorem Settles.quietThird_tmc {f : Field} {d : State → State} (h : Settles .tmcSg d) (hd : ∀ s, TmcSound s (d s))
    (hf : f ∈ [Field.tmcSg, .tmcMg]) : QuietThird f d := fun s t u hst htu hu =>
  Bool.eq_false_iff.mpr fun hraised => by
    obtain ⟨hchanges, -⟩ := hd u (hu _ (by decide)) (hu _ (by decide))
    refine hchanges.mp ?_ (h s t u hst htu)
    rcases List.mem_pair.mp hf with rfl | rfl
    · exact .inl hraised
    · exact .inr hraised

/-- The bits under the two-reception rule that a row's decoder may raise (R150). -/
def secondReceptionBits : List Field := [.ecc, .lc, .time, .tmcSys, .tmcSg, .tmcMg]

theorem rowDecoder_quietThird (i : Instr) (p : GroupBlocks) {f : Field} (hf : f ∈ secondReceptionBits) :
    QuietThird f (rowDecoder i p) := by
  have hc : f ∉ commonBits := (by decide : ∀ f ∈ secondReceptionBits, f ∉ commonBits) f hf
  by_cases hb : f ∉ rowBits i
  · exact .of_bits (rowDecoder_bits i p) hb hc
  rw [not_not] at hb
  have tmcSys_of_mem (h : f ∈ [Field.oda, .tmcSys]) : f = .tmcSys :=
    (by decide : ∀ f ∈ secondReceptionBits, f ∈ [Field.oda, .tmcSys] → f = .tmcSys) f hf h
  cases i with
  | g1aEcc =>
    obtain rfl := List.mem_singleton.mp hb
    exact (observeEcc_settles _).quietThird (fun s => (observeEcc_sound _ s).reports rfl) hc
  | g1aLc =>
    obtain rfl := List.mem_singleton.mp hb
    exact (observeLc_settles _).quietThird (fun s => (observeLc_sound _ s).reports rfl) hc
  | g3aTmcSys0 =>
    obtain rfl := tmcSys_of_mem hb
    simp only [rowDecoder, tmcSys0_eq]
    exact stageTmcSys_quietThird (TmcSys.setVariant0_idem _ _ _ _) _ _ _ _
  | g3aTmcSys1 =>
    obtain rfl := tmcSys_of_mem hb
    simp only [rowDecoder, tmcSys1_eq]
    exact stageTmcSys_quietThird (TmcSys.setVariant1_idem _ _ _ _ _) _ _ _ _
  | g4a =>
    obtain rfl := List.mem_singleton.mp hb
    exact (observeMjd_settles _ _).quietThird (fun s => (observeMjd_sound _ _ s).reports rfl) hc
  | g8aSg =>
    exact (tmcGate_settles (publishSingle_untouched _) (by decide) (publishSingle_publishesOnce _) _).quietThird_tmc
      (tmcGate_tmcSound (publishSingle_tmcSound _) _) hb
  | g8aMg2 =>
    exact (tmcGate_settles (secondMulti_untouched _ _ _) (by decide) (secondMulti_publishesOnce _ _ _) _).quietThird_tmc
      (tmcGate_tmcSound (secondMulti_tmcSound _ _ _) _) hb
  | g8aMgn =>
    exact (tmcGate_settles (nextMulti_untouched _ _ _) (by decide) (nextMulti_publishesOnce _ _ _) _).quietThird_tmc
      (tmcGate_tmcSound (nextMulti_tmcSound _ _ _) _) hb
  | _ => exact absurd hb ((by dsimp only [rowBits]; decide : ∀ f ∈ secondReceptionBits, f ∉ rowBits _) f hf)

/-! ### The whole row -/

theorem afterGroup_third_pi (i : Instr) (p : GroupBlocks) (s : State) :
    (afterGroup i p (afterGroup i p (afterGroup i p s))).raised .pi = false := by
  have hsecond := afterGroup_observes_pi i p (afterGroup i p s)
  rw [afterGroup_newPi] at hsecond
  exact hsecond.third_not_raised (afterGroup_observes_pi i p _)

theorem afterGroup_third_pty (i : Instr) (p : GroupBlocks) (s : State) :
    (afterGroup i p (afterGroup i p (afterGroup i p s))).raised .pty = false := by
  have hsecond := afterGroup_observes_pty i p (afterGroup i p s)
  rw [afterGroup_newPty] at hsecond
  exact hsecond.third_not_raised (afterGroup_observes_pty i p _)

theorem afterGroup_third_decoded (i : Instr) (p : GroupBlocks) (s : State) {f : Field} (hf : f ∈ secondReceptionBits) :
    (afterGroup i p (afterGroup i p (afterGroup i p s))).raised f = false :=
  rowDecoder_quietThird i p hf (s.extracted p) _ _ (extracted_untouched p (afterGroup i p s)) (extracted_untouched p _)
    fun _ hg => extracted_raised_other p _ hg

theorem exec_group_eq_next {i : Instr} {p : GroupBlocks} {s t : State} (he : encodeGroup i = some p) (h : exec i s = .next t) :
    t = afterGroup i p s := by
  rw [exec_group he] at h
  exact (whenCreated_eq_next h).2

/-- Settles O53: the second reception settles each public value, and a bit under the rule reports a change of its value only. -/
theorem thirdReceptionRaisesNothing : Obligations.ThirdReceptionRaisesNothing := by
  unfold Obligations.ThirdReceptionRaisesNothing
  intro i p s t u v he hst htu huv f hf
  obtain rfl := exec_group_eq_next he hst
  obtain rfl := exec_group_eq_next he htu
  obtain rfl := exec_group_eq_next he huv
  rcases List.mem_cons.mp hf with rfl | hf
  · exact afterGroup_third_pi i p s
  rcases List.mem_cons.mp hf with rfl | hf
  · exact afterGroup_third_pty i p s
  · exact afterGroup_third_decoded i p s hf

end Sys2Proof.Machine
end

section
/-! A group of type 0 (R160) as a chain of states, each stage over the group's payloads: the common extractors, TA and MS, the two PS
characters, PS publication, DI, and for version A the AF pair. What stands before a stage and what stands after it follow from the
frames of the other stages. -/

namespace Sys2Proof.Machine

/-! ### Carrying a field over a stage -/

/-- Neither a register nor a bit of the two flag words changes, but the listed ones. -/
structure Confined (cs : List Component) (fs : List Field) (s t : State) : Prop where
  regs : Untouched cs s t
  bits : BitsKept fs s t

theorem Confined.trans {cs cs' : List Component} {fs fs' : List Field} {s t u : State} (h : Confined cs fs s t)
    (h' : Confined cs' fs' t u) : Confined (cs ++ cs') (fs ++ fs') s u := ⟨h.regs.trans h'.regs, h.bits.trans h'.bits⟩

theorem Confined.mono {cs cs' : List Component} {fs fs' : List Field} {s t : State} (h : Confined cs fs s t)
    (hc : ∀ c ∈ cs, c ∈ cs') (hf : ∀ f ∈ fs, f ∈ fs') : Confined cs' fs' s t := ⟨h.regs.mono hc, h.bits.mono hf⟩

theorem BitsKept.raised {fs : List Field} {s t : State} (h : BitsKept fs s t) {f : Field} (hf : f ∉ fs) : t.raised f = s.raised f :=
  (h f.pos fun _ m e => hf (Field.pos_inj e ▸ m)).2

theorem BitsKept.published {fs : List Field} {s t : State} (h : BitsKept fs s t) {f : Field} {changed : Bool}
    (hp : Published f changed s) (hf : f ∉ fs) : Published f changed t := ⟨(h.isValid hf).trans hp.1, (h.raised hf).trans hp.2⟩

theorem BitsKept.quiet {fs : List Field} {s t u : State} (h : BitsKept fs t u) {f : Field} (hq : Quiet f s t) (hf : f ∉ fs) :
    Quiet f s u := ⟨(h.isValid hf).trans hq.1, (h.raised hf).trans hq.2⟩

/-- A stage appended to what a group has done so far. -/
theorem GroupFrame.append {cs cs' cs'' : List Component} {fs fs' fs'' : List Field} {s t u : State} (h : GroupFrame cs fs s t)
    (h' : Confined cs' fs' t u) (hc : ∀ c ∈ cs ++ cs', c ∈ commonTouched ++ cs'') (hf : ∀ f ∈ fs ++ fs', f ∈ fs'') :
    GroupFrame cs'' fs'' s u := by
  obtain ⟨hu, hb⟩ := h
  refine ⟨(hu.trans h'.regs).mono fun c m => ?_, fun k hk => ?_⟩
  · rw [List.append_assoc, List.mem_append] at m
    exact m.elim (List.mem_append_left _) (hc c)
  · have before := hb k fun f m => hk f (by
      rw [List.mem_append] at m ⊢
      exact m.imp_right fun m => hf f (List.mem_append_left _ m))
    have stage := h'.bits k fun f m => hk f (List.mem_append_right _ (hf f (List.mem_append_right _ m)))
    exact ⟨stage.1.trans before.1, stage.2.trans before.2⟩

/-- A field no stage so far has reported. -/
theorem GroupFrame.quiet {cs : List Component} {fs : List Field} {s t : State} (h : GroupFrame cs fs s t) {f : Field}
    (hf : f ∉ commonBits ++ fs) : Quiet f s t := h.2 f.pos fun _ m e => hf (Field.pos_inj e ▸ m)

theorem Published.of_flags {f : Field} {s t : State} {c : Prop} [Decidable c] {changed : Bool}
    (hv : t.validFields = s.validFields ||| f.mask) (hm : t.updMask = if c then s.updMask ||| f.mask else s.updMask)
    (hc : c ↔ changed = true) (hr : s.raised f = false) : Published f changed t := by
  unfold State.raised at hr
  unfold Published State.isValid State.raised
  rw [hv, hm, getLsbD_or_mask]
  refine ⟨by simp, ?_⟩
  by_cases h : c
  · rw [if_pos h, getLsbD_or_mask, hc.mp h]; simp
  · rw [if_neg h, hr]; exact (Bool.eq_false_iff.mpr fun hch => h (hc.mpr hch)).symm

/-! ### The stages of a type-0 group -/

/-- After TA and MS (R161, R162). -/
def State.flagged (p : GroupBlocks) (s : State) : State := acceptMs (p.b.getLsbD 3) (acceptTa (p.b.getLsbD 4) (s.extracted p))

/-- After the two PS characters (R163). -/
def State.psStaged (p : GroupBlocks) (s : State) : State :=
  addPs (psPos (p.b.extractLsb' 0 2) true) (p.d.extractLsb' 0 8)
    (addPs (psPos (p.b.extractLsb' 0 2) false) (p.d.extractLsb' 8 8) (s.flagged p))

/-- After PS publication (R164). -/
def State.named (p : GroupBlocks) (s : State) : State := publishPs (s.psStaged p)

/-- After DI (R165, R166), where the stages of both versions end. -/
def State.tuned (p : GroupBlocks) (s : State) : State := stepDi (p.b.extractLsb' 0 2) (p.b.getLsbD 2) (s.named p)

/-- What the two type-0 rows leave: version A goes on with the AF pair (R160, R174). -/
theorem afterGroup_type0 {i : Instr} {p : GroupBlocks} (he : encodeGroup i = some p) (hg : gidOf p = 0) (s : State) :
    afterGroup i p s
      = if verBOf p then s.tuned p else addAfPair (p.c.extractLsb' 8 8) (p.c.extractLsb' 0 8) (s.tuned p) := by
  cases i with
  | g0a | g0b =>
    cases he
    simp only [verBOf, State.tuned, State.named, State.psStaged, State.flagged, blockB_ver, blockB_low _ _ _ _ _ 0 2 (by decide),
      blockB_low_bit _ _ _ _ _ 4 (by decide), blockB_low_bit _ _ _ _ _ 3 (by decide), blockB_low_bit _ _ _ _ _ 2 (by decide),
      lowG0_ta, lowG0_ms, lowG0_dibit, lowG0_seg, bytePair_msb, bytePair_lsb]
    rfl
  | _ => cases he <;> simp [gidOf, blockB_gid] at hg

/-! ### What stands before a stage -/

theorem extracted_frame (p : GroupBlocks) (s : State) : GroupFrame [] [] s (s.extracted p) := by
  refine ⟨extracted_untouched p s, fun k hk => ?_⟩
  have h := commonExtractors_bits (Group.ofBlocks p) (p.b.getLsbD 10) (p.b.extractLsb' 5 5) s.clearOutputs k hk
  exact ⟨h.1, h.2.trans BitVec.getLsbD_zero⟩

theorem flagged_frame (p : GroupBlocks) (s : State) : GroupFrame [.ta, .ms] [.ta, .ms] s (s.flagged p) :=
  (extracted_frame p s).append (.trans ⟨acceptTa_untouched _ _, acceptTa_bits _ _⟩ ⟨acceptMs_untouched _ _, acceptMs_bits _ _⟩)
    (by decide) (by decide)

theorem psStaged_frame (p : GroupBlocks) (s : State) : GroupFrame [.ta, .ms, .newPs, .newPsValid] [.ta, .ms] s (s.psStaged p) :=
  (flagged_frame p s).append (.trans ⟨addPs_untouched _ _ _, addPs_bits _ _ _⟩ ⟨addPs_untouched _ _ _, addPs_bits _ _ _⟩)
    (by decide) (by decide)

theorem named_frame (p : GroupBlocks) (s : State) :
    GroupFrame [.ta, .ms, .newPs, .newPsValid, .ps] [.ta, .ms, .ps] s (s.named p) :=
  (psStaged_frame p s).append ⟨publishPs_untouched _, publishPs_bits _⟩ (by decide) (by decide)

theorem tuned_frame (p : GroupBlocks) (s : State) :
    GroupFrame [.ta, .ms, .newPs, .newPsValid, .ps, .newDi, .nextDiSegment, .di] [.ta, .ms, .ps, .di] s (s.tuned p) :=
  (named_frame p s).append ⟨stepDi_untouched _ _ _, stepDi_bits _ _ _⟩ (by decide) (by decide)

/-! ### What stands after a stage -/

section
variable {i : Instr} {p : GroupBlocks} (he : encodeGroup i = some p) (hg : gidOf p = 0) (s : State)
include he hg

theorem tuned_confined : Confined [.rdsAf, .validFields, .updMask] [.af] (s.tuned p) (afterGroup i p s) := by
  rw [afterGroup_type0 he hg]
  split
  · exact ⟨.refl _ _, .refl _ _⟩
  · exact ⟨addAfPair_untouched _ _ _, addAfPair_bits _ _ _⟩

theorem named_confined :
    Confined [.newDi, .nextDiSegment, .di, .rdsAf, .validFields, .updMask] [.di, .af] (s.named p) (afterGroup i p s) :=
  (Confined.trans ⟨stepDi_untouched _ _ _, stepDi_bits _ _ _⟩ (tuned_confined he hg s)).mono (by decide) (by decide)

theorem psStaged_confined :
    Confined [.ps, .newDi, .nextDiSegment, .di, .rdsAf, .validFields, .updMask] [.ps, .di, .af] (s.psStaged p) (afterGroup i p s) :=
  (Confined.trans ⟨publishPs_untouched _, publishPs_bits _⟩ (named_confined he hg s)).mono (by decide) (by decide)

theorem flagged_confined :
    Confined [.newPs, .newPsValid, .ps, .newDi, .nextDiSegment, .di, .rdsAf, .validFields, .updMask] [.ps, .di, .af] (s.flagged p)
      (afterGroup i p s) :=
  (Confined.trans (.trans ⟨addPs_untouched _ _ _, addPs_bits _ _ _⟩ ⟨addPs_untouched _ _ _, addPs_bits _ _ _⟩)
    (psStaged_confined he hg s)).mono (by decide) (by decide)

/-- The frame of the two rows. -/
theorem afterGroup_type0_frame :
    GroupFrame [.ta, .ms, .newPs, .newPsValid, .ps, .newDi, .nextDiSegment, .di, .rdsAf] [.ta, .ms, .ps, .di, .af] s
      (afterGroup i p s) :=
  (tuned_frame p s).append (tuned_confined he hg s) (by decide) (by decide)

end

/-! ### TA and MS (R161, R162) -/

theorem acceptTa_publishes (x : Bool) {s : State} (h : s.raised .ta = false) : Published .ta (x != s.ta) (acceptTa x s) := by
  rw [acceptTa_eq]; exact .of_flags rfl rfl Iff.rfl h

theorem acceptMs_publishes (x : Bool) {s : State} (h : s.raised .ms = false) : Published .ms (x != s.ms) (acceptMs x s) := by
  rw [acceptMs_eq]; exact .of_flags rfl rfl Iff.rfl h

theorem flagged_ta (p : GroupBlocks) (s : State) :
    (s.flagged p).ta = p.b.getLsbD 4 ∧ Published .ta (p.b.getLsbD 4 != s.ta) (s.flagged p) := by
  have hold : s.ta = (s.extracted p).ta := (extracted_frame p s).1 .ta (by decide)
  have hacc := acceptTa_publishes (p.b.getLsbD 4) ((extracted_frame p s).quiet (f := .ta) (by decide)).2
  have hms : Confined _ _ _ (s.flagged p) := ⟨acceptMs_untouched _ _, acceptMs_bits _ _⟩
  refine ⟨(hms.regs .ta (by decide)).symm.trans (by rw [acceptTa_eq]), ?_⟩
  rw [hold]
  exact hms.bits.published hacc (by decide)

theorem flagged_ms (p : GroupBlocks) (s : State) :
    (s.flagged p).ms = p.b.getLsbD 3 ∧ Published .ms (p.b.getLsbD 3 != s.ms) (s.flagged p) := by
  have hta : GroupFrame [.ta] [.ta] s (acceptTa (p.b.getLsbD 4) (s.extracted p)) :=
    (extracted_frame p s).append ⟨acceptTa_untouched _ _, acceptTa_bits _ _⟩ (by decide) (by decide)
  have hold : s.ms = (acceptTa (p.b.getLsbD 4) (s.extracted p)).ms := hta.1 .ms (by decide)
  have hacc := acceptMs_publishes (p.b.getLsbD 3) (hta.quiet (f := .ms) (by decide)).2
  rw [hold]
  exact ⟨by rw [State.flagged, acceptMs_eq], hacc⟩

/-- Settles O25: TA and MS are taken by the first stages, and no later stage writes them or their bits. -/
theorem taAndMsAreAcceptedAtOnce : Obligations.TaAndMsAreAcceptedAtOnce := by
  unfold Obligations.TaAndMsAreAcceptedAtOnce
  intro i p s he hg hc
  have later := flagged_confined he hg s
  obtain ⟨hta, hpta⟩ := flagged_ta p s
  obtain ⟨hms, hpms⟩ := flagged_ms p s
  exact ⟨afterGroup i p s, exec_group_next he hc, (later.regs .ta (by decide)).symm.trans hta, later.bits.published hpta (by decide),
    (later.regs .ms (by decide)).symm.trans hms, later.bits.published hpms (by decide), afterGroup_type0_frame he hg s⟩

end Sys2Proof.Machine
end

section
/-! The PS characters of a type-0 group (R163, R164): two characters staged one after the other, and the name published when all eight
flags are set. -/

namespace Sys2Proof.Machine

/-! ### One character -/

theorem addPs_agree {pos : Fin 8} {ch : Byte} {s : State} (h : ch = s.newPs[pos]) :
    addPs pos ch s = { s with newPsValid := s.newPsValid.set pos true } := if_pos h

theorem addPs_differ {pos : Fin 8} {ch : Byte} {s : State} (h : ch ≠ s.newPs[pos]) :
    addPs pos ch s = { s with newPs := s.newPs.set pos ch, newPsValid := Vector.replicate _ false } := if_neg h

theorem getElem_set_fin {α : Type} {n : Nat} (v : Vector α n) (pos k : Fin n) (x : α) :
    (v.set pos x)[k] = if k = pos then x else v[k] := by
  simp [Vector.getElem_set, Fin.ext_iff, eq_comm]

/-- Either way the position holds the character: an agreeing one stands there already. -/
theorem addPs_newPs (pos : Fin 8) (ch : Byte) (s : State) (k : Fin 8) :
    (addPs pos ch s).newPs[k] = if k = pos then ch else s.newPs[k] := by
  by_cases h : ch = s.newPs[pos]
  · rw [addPs_agree h]
    split
    · rename_i hk; rw [hk]; exact h.symm
    · rfl
  · rw [addPs_differ h]; exact getElem_set_fin _ _ _ _

/-- A disagreement clears every flag; an agreement sets the flag of its position (R163). -/
theorem addPs_newPsValid (pos : Fin 8) (ch : Byte) (s : State) (k : Fin 8) :
    (addPs pos ch s).newPsValid[k] = if ch ≠ s.newPs[pos] then false else if k = pos then true else s.newPsValid[k] := by
  by_cases h : ch = s.newPs[pos]
  · rw [addPs_agree h, if_neg (not_not.mpr h)]; exact getElem_set_fin _ _ _ _
  · rw [addPs_differ h, if_pos h]; simp

/-! ### The two positions of a segment -/

theorem psPos_true_ne_false (seg : BitVec 2) : psPos seg true ≠ psPos seg false := fun h => by
  simp [psPos] at h

theorem eq_psPos_true_iff (seg : BitVec 2) (k : Fin 8) : k = psPos seg true ↔ k.val = 2 * seg.toNat + 1 := Fin.ext_iff

theorem eq_psPos_false_iff (seg : BitVec 2) (k : Fin 8) : k = psPos seg false ↔ k.val = 2 * seg.toNat := Fin.ext_iff

theorem getD_eq_getElem_fin {α : Type} {n : Nat} (v : Vector α n) (k : Fin n) (d : α) : v.toList.getD k.val d = v[k] := by
  simp

/-! ### Both characters -/

/-- Each of the two positions holds its own character. -/
theorem psStaged_newPs (p : GroupBlocks) (s : State) (k : Fin 8) :
    (s.psStaged p).newPs[k] =
      if k = psPos (p.b.extractLsb' 0 2) false then p.d.extractLsb' 8 8
      else if k = psPos (p.b.extractLsb' 0 2) true then p.d.extractLsb' 0 8 else s.newPs[k] := by
  have hold : s.newPs = (s.flagged p).newPs := (flagged_frame p s).1 .newPs (by decide)
  rw [State.psStaged, addPs_newPs, addPs_newPs, hold]
  by_cases hk : k = psPos (p.b.extractLsb' 0 2) true
  · subst hk; rw [if_pos rfl, if_neg (psPos_true_ne_false _), if_pos rfl]
  · rw [if_neg hk, if_neg hk]

/-- The first character does not touch the position of the second, so both are compared with what was staged before the group. -/
theorem psStaged_newPsValid (p : GroupBlocks) (s : State) (k : Fin 8) :
    (s.psStaged p).newPsValid[k] =
      if p.d.extractLsb' 0 8 ≠ s.newPs[psPos (p.b.extractLsb' 0 2) true] then false
      else if k = psPos (p.b.extractLsb' 0 2) true then true
      else if p.d.extractLsb' 8 8 ≠ s.newPs[psPos (p.b.extractLsb' 0 2) false] then false
      else if k = psPos (p.b.extractLsb' 0 2) false then true
      else s.newPsValid[k] := by
  have hchars : s.newPs = (s.flagged p).newPs := (flagged_frame p s).1 .newPs (by decide)
  have hflags : s.newPsValid = (s.flagged p).newPsValid := (flagged_frame p s).1 .newPsValid (by decide)
  rw [State.psStaged, addPs_newPsValid, addPs_newPsValid, addPs_newPs, if_neg (psPos_true_ne_false _), hchars, hflags]

/-! ### Publication -/

theorem publishPs_complete {s : State} (h : ∀ k : Fin 8, s.newPsValid[k] = true) (hr : s.raised .ps = false) :
    (publishPs s).ps = s.newPs ∧ Published .ps (s.newPs != s.ps) (publishPs s) := by
  rw [publishPs_eq]
  exact ⟨if_pos h, .of_flags (if_pos h) rfl (by simp [h]) hr⟩

theorem publishPs_incomplete {s : State} (h : ¬∀ k : Fin 8, s.newPsValid[k] = true) : publishPs s = s := if_neg h

section
variable {i : Instr} {p : GroupBlocks} (he : encodeGroup i = some p) (hg : gidOf p = 0) (s : State)
include he hg

theorem afterGroup_newPs : (afterGroup i p s).newPs = (s.psStaged p).newPs :=
  ((psStaged_confined he hg s).regs .newPs (by decide)).symm

theorem afterGroup_newPsValid : (afterGroup i p s).newPsValid = (s.psStaged p).newPsValid :=
  ((psStaged_confined he hg s).regs .newPsValid (by decide)).symm

theorem afterGroup_publishes_ps (h : ∀ k : Fin 8, (afterGroup i p s).newPsValid[k] = true) :
    (afterGroup i p s).ps = (afterGroup i p s).newPs ∧ Published .ps ((afterGroup i p s).newPs != s.ps) (afterGroup i p s) := by
  have later := named_confined he hg s
  have hold : s.ps = (s.psStaged p).ps := (psStaged_frame p s).1 .ps (by decide)
  rw [afterGroup_newPsValid he hg] at h
  obtain ⟨hps, hpub⟩ := publishPs_complete h ((psStaged_frame p s).quiet (f := .ps) (by decide)).2
  rw [afterGroup_newPs he hg, hold]
  exact ⟨(later.regs .ps (by decide)).symm.trans hps, later.bits.published hpub (by decide)⟩

theorem afterGroup_keeps_ps (h : ¬∀ k : Fin 8, (afterGroup i p s).newPsValid[k] = true) :
    (afterGroup i p s).ps = s.ps ∧ Quiet .ps s (afterGroup i p s) := by
  have later := named_confined he hg s
  rw [afterGroup_newPsValid he hg] at h
  have hnamed : s.named p = s.psStaged p := publishPs_incomplete h
  rw [hnamed] at later
  have hold : s.ps = (s.psStaged p).ps := (psStaged_frame p s).1 .ps (by decide)
  exact ⟨(later.regs .ps (by decide)).symm.trans hold.symm, later.bits.quiet ((psStaged_frame p s).quiet (by decide)) (by decide)⟩

end

/-- Settles O26: the characters and flags are those of the two comparisons, and publication asks for all eight flags. -/
theorem psCharactersAreStagedAndPublished : Obligations.PsCharactersAreStagedAndPublished := by
  unfold Obligations.PsCharactersAreStagedAndPublished
  intro i p s he hg hc seg c0 c1
  refine ⟨afterGroup i p s, exec_group_next he hc, fun k => ?_, fun k => ?_, ?_⟩
  · rw [afterGroup_newPs he hg, psStaged_newPs]
    simp only [eq_psPos_true_iff, eq_psPos_false_iff]
    rfl
  · have hfirst := getD_eq_getElem_fin s.newPs (psPos (p.b.extractLsb' 0 2) false) 0
    have hsecond := getD_eq_getElem_fin s.newPs (psPos (p.b.extractLsb' 0 2) true) 0
    rw [afterGroup_newPsValid he hg, psStaged_newPsValid, ← hfirst, ← hsecond]
    simp only [eq_psPos_true_iff, eq_psPos_false_iff]
    rfl
  · split
    · exact afterGroup_publishes_ps he hg s ‹_›
    · exact afterGroup_keeps_ps he hg s ‹_›

end Sys2Proof.Machine
end

section
/-! The DI bits of a type-0 group (R165, R166): what the accumulator and the expected segment become, and when the field is published. -/

namespace Sys2Proof.Machine

theorem getLsbD_setBit {w : Nat} (v : BitVec w) (j : Nat) (b : Bool) {k : Nat} (hk : k < w) :
    (setBit v j b).getLsbD k = if k = j then b else v.getLsbD k := by
  have hone : (1#w <<< j).getLsbD k = decide (k = j) := by
    rw [BitVec.getLsbD_shiftLeft, BitVec.getLsbD_one]
    by_cases h : k = j
    · simp [h]; omega
    · simp [h]; omega
  unfold setBit
  cases b with
  | true => simp only [if_true, BitVec.getLsbD_or, hone]; by_cases h : k = j <;> simp [h]
  | false => simp only [Bool.false_eq_true, if_false, BitVec.getLsbD_and, BitVec.getLsbD_not, hone]; by_cases h : k = j <;> simp [h, hk]

/-! ### One segment -/

theorem stepDi_newDi (seg : BitVec 2) (b : Bool) (s : State) :
    (stepDi seg b s).newDi
      = if seg = 0 then setBit 0 0 b else if seg = s.nextDiSegment then setBit s.newDi seg.toNat b else 0 := by
  refine stepDi_cases seg b s (motive := fun t => t.newDi
    = if seg = 0 then setBit 0 0 b else if seg = s.nextDiSegment then setBit s.newDi seg.toNat b else 0)
    (fun h => ?_) (fun h hn _ => ?_) (fun h hn => ?_) (fun h hn => ?_)
  · rw [if_pos h]
  · rw [if_neg h, if_pos hn]
  · subst h; simp [hn]
  · rw [if_neg h, if_neg hn]

theorem stepDi_nextDiSegment (seg : BitVec 2) (b : Bool) (s : State) :
    (stepDi seg b s).nextDiSegment
      = if seg = 0 then 1 else if seg = s.nextDiSegment then if seg = 3 then 0 else seg + 1 else 0 := by
  refine stepDi_cases seg b s (motive := fun t => t.nextDiSegment
    = if seg = 0 then 1 else if seg = s.nextDiSegment then if seg = 3 then 0 else seg + 1 else 0)
    (fun h => ?_) (fun h hn h3 => ?_) (fun h hn => ?_) (fun h hn => ?_)
  · rw [if_pos h]
  · rw [if_neg h, if_pos hn, if_neg h3]
  · subst h; simp [hn]
  · rw [if_neg h, if_neg hn]

/-- Segment 3 in order completes the field (R166). -/
theorem stepDi_complete (b : Bool) {s : State} (hn : s.nextDiSegment = 3) (hr : s.raised .di = false) :
    (stepDi 3 b s).di = (stepDi 3 b s).newDi ∧ Published .di ((stepDi 3 b s).newDi != s.di) (stepDi 3 b s) := by
  rw [stepDi_last hn]
  exact ⟨rfl, .of_flags rfl rfl Iff.rfl hr⟩

/-- Any other segment leaves the public field and its bits alone (R165). -/
theorem stepDi_incomplete {seg : BitVec 2} {s : State} (h : ¬(seg = 3 ∧ s.nextDiSegment = 3)) (b : Bool) :
    (stepDi seg b s).di = s.di ∧ BitsKept [] s (stepDi seg b s) :=
  stepDi_cases seg b s (motive := fun t => t.di = s.di ∧ BitsKept [] s t) (fun _ => ⟨rfl, .of_eq rfl rfl⟩)
    (fun _ _ _ => ⟨rfl, .of_eq rfl rfl⟩) (fun h3 hn => absurd ⟨h3, hn⟩ h) (fun _ _ => ⟨rfl, .of_eq rfl rfl⟩)

/-! ### The whole group -/

section
variable {i : Instr} {p : GroupBlocks} (he : encodeGroup i = some p) (hg : gidOf p = 0) (s : State)
include he hg

theorem afterGroup_newDi :
    (afterGroup i p s).newDi = if p.b.extractLsb' 0 2 = 0 then setBit 0 0 (p.b.getLsbD 2)
      else if p.b.extractLsb' 0 2 = s.nextDiSegment then setBit s.newDi (p.b.extractLsb' 0 2).toNat (p.b.getLsbD 2) else 0 := by
  have hdi : s.newDi = (s.named p).newDi := (named_frame p s).1 .newDi (by decide)
  have hnext : s.nextDiSegment = (s.named p).nextDiSegment := (named_frame p s).1 .nextDiSegment (by decide)
  rw [hdi, hnext, ← stepDi_newDi]
  exact ((tuned_confined he hg s).regs .newDi (by decide)).symm

theorem afterGroup_nextDiSegment :
    (afterGroup i p s).nextDiSegment = if p.b.extractLsb' 0 2 = 0 then 1
      else if p.b.extractLsb' 0 2 = s.nextDiSegment then if p.b.extractLsb' 0 2 = 3 then 0 else p.b.extractLsb' 0 2 + 1 else 0 := by
  have hnext : s.nextDiSegment = (s.named p).nextDiSegment := (named_frame p s).1 .nextDiSegment (by decide)
  rw [hnext, ← stepDi_nextDiSegment (b := p.b.getLsbD 2)]
  exact ((tuned_confined he hg s).regs .nextDiSegment (by decide)).symm

theorem afterGroup_publishes_di (h3 : p.b.extractLsb' 0 2 = 3) (hn : s.nextDiSegment = 3) :
    (afterGroup i p s).di = (afterGroup i p s).newDi ∧ Published .di ((afterGroup i p s).newDi != s.di) (afterGroup i p s) := by
  have later := tuned_confined he hg s
  have htuned : s.tuned p = stepDi 3 (p.b.getLsbD 2) (s.named p) := by rw [State.tuned, h3]
  have hnext : s.nextDiSegment = (s.named p).nextDiSegment := (named_frame p s).1 .nextDiSegment (by decide)
  have hold : s.di = (s.named p).di := (named_frame p s).1 .di (by decide)
  have hacc : (s.tuned p).newDi = (afterGroup i p s).newDi := later.regs .newDi (by decide)
  have hpublic : (s.tuned p).di = (afterGroup i p s).di := later.regs .di (by decide)
  obtain ⟨hdi, hpub⟩ := stepDi_complete (p.b.getLsbD 2) (hnext.symm.trans hn) ((named_frame p s).quiet (f := .di) (by decide)).2
  rw [← htuned] at hdi hpub
  rw [← hpublic, ← hacc, hold]
  exact ⟨hdi, later.bits.published hpub (by decide)⟩

theorem afterGroup_keeps_di (h : ¬(p.b.extractLsb' 0 2 = 3 ∧ s.nextDiSegment = 3)) :
    (afterGroup i p s).di = s.di ∧ Quiet .di s (afterGroup i p s) := by
  have hnext : s.nextDiSegment = (s.named p).nextDiSegment := (named_frame p s).1 .nextDiSegment (by decide)
  have hold : s.di = (s.named p).di := (named_frame p s).1 .di (by decide)
  rw [hnext] at h
  have later := tuned_confined he hg s
  obtain ⟨hdi, hbits⟩ := stepDi_incomplete h (p.b.getLsbD 2)
  have hquiet : Quiet .di s (s.tuned p) := hbits.quiet ((named_frame p s).quiet (by decide)) (by decide)
  exact ⟨(later.regs .di (by decide)).symm.trans (hdi.trans hold.symm), later.bits.quiet hquiet (by decide)⟩

end

/-- Settles O27: by the segment, which is 0, the expected one (the last or not), or out of order. -/
theorem diSegmentsInOrder : Obligations.DiSegmentsInOrder := by
  unfold Obligations.DiSegmentsInOrder
  intro i p s he hg hc seg b
  have hnew := afterGroup_newDi he hg s
  have hnext := afterGroup_nextDiSegment he hg s
  refine ⟨afterGroup i p s, exec_group_next he hc, ?_⟩
  by_cases h0 : seg = 0
  · rw [if_pos h0] at hnew hnext ⊢
    refine ⟨fun k hk => ?_, hnext, afterGroup_keeps_di he hg s fun h => absurd (h0.symm.trans h.1) (by decide)⟩
    rw [hnew, getLsbD_setBit _ _ _ hk]
    by_cases hz : k = 0 <;> simp [hz, b]
  by_cases hn : seg = s.nextDiSegment
  · rw [if_neg h0, if_pos hn] at hnew hnext ⊢
    refine ⟨fun k hk => by rw [hnew, getLsbD_setBit _ _ _ hk], ?_⟩
    by_cases h3 : seg = 3
    · rw [if_pos h3] at hnext ⊢
      exact ⟨hnext, afterGroup_publishes_di he hg s h3 (hn.symm.trans h3)⟩
    · rw [if_neg h3] at hnext ⊢
      exact ⟨hnext, afterGroup_keeps_di he hg s fun h => h3 h.1⟩
  · rw [if_neg h0, if_neg hn] at hnew hnext ⊢
    exact ⟨hnew, hnext, afterGroup_keeps_di he hg s fun h => hn (h.1.trans h.2.symm)⟩

end Sys2Proof.Machine
end

section
/-! The alternative-frequency set over numbers and lists (R168 to R173): each operation on the registers is the rule on what they stand
for, as long as the set holds no more than its 25 entries. -/

namespace Sys2Proof.Machine

/-! ### The bound and the entries -/

/-- The size is within the array (the part of R46 (3) the registers alone need). -/
def AfSet.Fits (a : AfSet) : Prop := a.size.toNat ≤ 25

theorem AfSet.Fits.length_entries {a : AfSet} (h : a.Fits) : a.entries.length = a.size.toNat := by
  rw [AfSet.entries, List.length_take, Vector.length_toList]; exact Nat.min_eq_left h

theorem AfSet.Fits.length_view {a : AfSet} (h : a.Fits) : a.view.entries.length = a.size.toNat := by
  rw [AfSet.view, List.length_map, h.length_entries]

theorem AfSet.mem_view_entries (a : AfSet) (f : BitVec 32) : f.toNat ∈ a.view.entries ↔ a.holds f = true := by
  rw [AfSet.holds_iff, AfSet.view, List.mem_map]
  exact ⟨fun ⟨_, hg, he⟩ => BitVec.eq_of_toNat_eq he ▸ hg, fun h => ⟨f, h, rfl⟩⟩

/-! ### Insertion (R171) -/

/-- There is room, the announced count is not reached, and the frequency is new. -/
def AfSet.Takes (a : AfSet) (f : BitVec 32) : Prop :=
  a.size.toNat < 25 ∧ a.size.toNat < a.announcedAf.toNat ∧ a.holds f = false

theorem AfSet.insert_takes {a : AfSet} {f : BitVec 32} (h : a.Takes f) :
    a.insert f = { a with af := a.af.set a.size.toNat f h.1, size := a.size + 1 } := by
  unfold AfSet.insert; rw [dif_pos h.1, if_pos h.2]

theorem AfSet.insert_rejects {a : AfSet} {f : BitVec 32} (h : ¬a.Takes f) : a.insert f = a := by
  unfold AfSet.insert
  split
  · exact if_neg fun h' => h ⟨‹_›, h'⟩
  · rfl

theorem AfSet.size_succ {a : AfSet} (h : a.size.toNat < 25) : (a.size + 1).toNat = a.size.toNat + 1 := by
  simp; omega

theorem AfSet.Fits.insert {a : AfSet} (h : a.Fits) (f : BitVec 32) : (a.insert f).Fits := by
  by_cases ht : a.Takes f
  · rw [AfSet.insert_takes ht]
    exact (AfSet.size_succ ht.1).trans_le ht.1
  · rwa [AfSet.insert_rejects ht]

/-- The rule over lists rejects a frequency exactly where the registers do. -/
theorem AfSet.Fits.takes_iff {a : AfSet} (h : a.Fits) (f : BitVec 32) :
    ¬(25 ≤ a.view.entries.length ∨ a.view.announced ≤ a.view.entries.length ∨ f.toNat ∈ a.view.entries) ↔ a.Takes f := by
  rw [h.length_view, AfSet.mem_view_entries, not_or, not_or, not_le, not_le, Bool.not_eq_true]
  rfl

theorem AfSet.Fits.view_insert {a : AfSet} (h : a.Fits) (f : BitVec 32) : (a.insert f).view = a.view.insert f.toNat := by
  unfold AfView.insert
  by_cases ht : a.Takes f
  · rw [AfSet.insert_takes ht, if_neg ((h.takes_iff f).mpr ht)]
    have hent : AfSet.entries { a with af := a.af.set a.size.toNat f ht.1, size := a.size + 1 } = a.entries ++ [f] := by
      rw [AfSet.entries, AfSet.size_succ ht.1]; exact take_set_succ _ _ _ ht.1
    rw [AfSet.view, hent, List.map_append]
    rfl
  · rw [AfSet.insert_rejects ht, if_pos (not_not.mp fun hn => ht ((h.takes_iff f).mp hn))]

/-- A frequency in hertz fits the register. -/
theorem AfSet.Fits.view_insert_hertz {a : AfSet} (h : a.Fits) {hz : Nat} (hhz : hz < 2 ^ 32) :
    (a.insert (BitVec.ofNat 32 hz)).view = a.view.insert hz := by
  rw [h.view_insert, BitVec.toNat_ofNat, Nat.mod_eq_of_lt hhz]

/-! ### Announcement (R170) -/

theorem AfSet.announce_size (k : BitVec 5) (a : AfSet) : (a.announce k).size.toNat = min k.toNat a.size.toNat := by
  unfold AfSet.announce; dsimp only; split <;> omega

theorem AfSet.Fits.announce {a : AfSet} (h : a.Fits) (k : BitVec 5) : (a.announce k).Fits := by
  unfold AfSet.Fits at h ⊢; rw [AfSet.announce_size]; omega

theorem AfSet.view_announce (k : BitVec 5) (a : AfSet) : (a.announce k).view = ⟨k.toNat, a.view.entries.take k.toNat⟩ := by
  have hent : (a.announce k).entries = a.entries.take k.toNat := by
    rw [AfSet.entries, AfSet.announce_size, AfSet.entries, List.take_take]; rfl
  rw [AfSet.view, hent, List.map_take]
  rfl

/-! ### The bytes (R168, R169, R172) -/

theorem AfSet.Fits.plain {a : AfSet} (h : a.Fits) (n : Byte) : (a.plain n).Fits := by
  unfold AfSet.plain
  cases afCode n with
  | vhf f => exact h.insert f
  | announce k => exact h.announce k
  | ignored => exact h

theorem AfSet.Fits.view_plain {a : AfSet} (h : a.Fits) (n : Byte) : (a.plain n).view = a.view.plain n.toNat := by
  unfold AfSet.plain afCode AfView.plain
  split_ifs with hvhf hann
  · exact h.view_insert_hertz (by omega)
  · have hk : (BitVec.ofNat 5 (n.toNat - 224)).toNat = n.toNat - 224 := by
      rw [BitVec.toNat_ofNat, Nat.mod_eq_of_lt (by omega)]
    exact (AfSet.view_announce _ a).trans (by rw [hk])
  · rfl

theorem AfSet.Fits.lfmf {a : AfSet} (h : a.Fits) (n : Byte) : (a.lfmf n).Fits := by
  unfold AfSet.lfmf
  cases lfmfFrequency n with
  | some f => exact h.insert f
  | none => exact h

theorem AfSet.Fits.view_lfmf {a : AfSet} (h : a.Fits) (n : Byte) : (a.lfmf n).view = a.view.lfmf n.toNat := by
  have hn : n.toNat < 256 := n.isLt
  unfold AfSet.lfmf lfmfFrequency AfView.lfmf
  split_ifs with hzero hlf
  · rfl
  · exact h.view_insert_hertz (by omega)
  · exact h.view_insert_hertz (by omega)

theorem AfSet.Fits.pair {a : AfSet} (h : a.Fits) (b1 b2 : Byte) : (a.pair b1 b2).Fits := by
  unfold AfSet.pair
  split
  · exact h.lfmf b2
  · exact (h.plain b1).plain b2

theorem AfSet.Fits.view_pair {a : AfSet} (h : a.Fits) (b1 b2 : Byte) : (a.pair b1 b2).view = a.view.pair b1.toNat b2.toNat := by
  have hcode : b1 = 250 ↔ b1.toNat = 250 := BitVec.toNat_inj.symm
  unfold AfSet.pair AfView.pair
  by_cases h250 : b1 = 250
  · rw [if_pos h250, if_pos (hcode.mp h250), h.view_lfmf]
  · rw [if_neg h250, if_neg fun e => h250 (hcode.mpr e), (h.plain b1).view_plain, h.view_plain]

/-! ### The two flags (R168, R173) -/

theorem AfSet.entries_eq_iff {a b : AfSet} (ha : a.Fits) (hsize : a.size = b.size) :
    a.entries = b.entries ↔ ∀ k : Fin 25, k.val < a.size.toNat → a.af[k] = b.af[k] := by
  have hb : b.Fits := by unfold AfSet.Fits; rwa [← hsize]
  constructor
  · intro h k hk
    have hget := congrArg (·[k.val]?) h
    simpa [AfSet.entries, hk, ← hsize] using hget
  · intro h
    refine List.ext_getElem (by rw [ha.length_entries, hb.length_entries, hsize]) fun k hk _ => ?_
    rw [ha.length_entries] at hk
    simpa [AfSet.entries] using h ⟨k, hk.trans_le ha⟩ hk

/-- The comparison of R168 is equality of what the registers stand for. -/
theorem AfSet.Fits.same_iff {a b : AfSet} (ha : a.Fits) (hb : b.Fits) : a.same b = true ↔ a.view = b.view := by
  have hmap : a.entries.map BitVec.toNat = b.entries.map BitVec.toNat ↔ a.entries = b.entries :=
    (List.map_injective_iff.mpr fun _ _ => BitVec.eq_of_toNat_eq).eq_iff
  unfold AfSet.same AfSet.view
  rw [AfView.mk.injEq, BitVec.toNat_inj, hmap, Bool.and_eq_true, Bool.and_eq_true, beq_iff_eq, beq_iff_eq, decide_eq_true_iff,
    and_assoc]
  refine and_congr_right fun _ => ⟨fun ⟨hsize, h⟩ => (AfSet.entries_eq_iff ha hsize).mpr h, fun h => ?_⟩
  have hsize : a.size = b.size := BitVec.eq_of_toNat_eq (by rw [← ha.length_entries, ← hb.length_entries, h])
  exact ⟨hsize, (AfSet.entries_eq_iff ha hsize).mp h⟩

/-- The condition of R173. -/
theorem AfSet.Fits.complete_iff {a : AfSet} (h : a.Fits) :
    (a.announcedAf ≠ 0 ∧ a.size = a.announcedAf) ↔ a.view.announced ≠ 0 ∧ a.view.entries.length = a.view.announced := by
  rw [h.length_view, ← BitVec.toNat_inj (x := a.size), ne_eq, ← BitVec.toNat_inj (x := a.announcedAf)]
  rfl

theorem addAfPair_raised (b1 b2 : Byte) {s : State} (h : s.rdsAf.Fits) (hr : s.raised .af = false) :
    (addAfPair b1 b2 s).raised .af = decide ((addAfPair b1 b2 s).rdsAf.view ≠ s.rdsAf.view) := by
  have hchanges : (!(s.rdsAf.pair b1 b2).same s.rdsAf) = decide ((s.rdsAf.pair b1 b2).view ≠ s.rdsAf.view) := by
    rw [Bool.eq_iff_iff, decide_eq_true_iff, Bool.not_eq_true', ← Bool.not_eq_true, (h.pair b1 b2).same_iff h]
  rw [addAfPair_eq]
  unfold State.raised at hr ⊢
  dsimp only
  rw [hchanges]
  by_cases hv : (s.rdsAf.pair b1 b2).view = s.rdsAf.view
  · simp [hv, hr]
  · rw [if_pos (decide_eq_true hv), getLsbD_or_mask, decide_eq_true hv]; simp

theorem addAfPair_isValid (b1 b2 : Byte) {s : State} (h : s.rdsAf.Fits) :
    (addAfPair b1 b2 s).isValid .af = (s.isValid .af || decide ((addAfPair b1 b2 s).rdsAf.view.announced ≠ 0
      ∧ (addAfPair b1 b2 s).rdsAf.view.entries.length = (addAfPair b1 b2 s).rdsAf.view.announced)) := by
  rw [addAfPair_eq]
  unfold State.isValid
  dsimp only
  rw [← decide_eq_decide.mpr (h.pair b1 b2).complete_iff]
  split
  · rename_i hcomplete; rw [getLsbD_or_mask, decide_eq_true hcomplete]; simp
  · rename_i hincomplete; rw [decide_eq_false hincomplete, Bool.or_false]

/-- Settles O28: the set's registers follow the rules over numbers and lists, and the earlier stages leave the set and its bits alone. -/
theorem afPairUpdatesTheSet : Obligations.AfPairUpdatesTheSet := by
  unfold Obligations.AfPairUpdatesTheSet
  intro i p s he hg hver hc hfits
  have hset : s.rdsAf = (s.tuned p).rdsAf := (tuned_frame p s).1 .rdsAf (by decide)
  obtain ⟨hvalid, hraised⟩ := (tuned_frame p s).quiet (f := .af) (by decide)
  have hafter : afterGroup i p s = addAfPair (p.c.extractLsb' 8 8) (p.c.extractLsb' 0 8) (s.tuned p) := by
    rw [afterGroup_type0 he hg, hver]; rfl
  have hf : (s.tuned p).rdsAf.Fits := hset ▸ hfits
  refine ⟨afterGroup i p s, exec_group_next he hc, ?_⟩
  rw [hset, ← hvalid, hafter]
  refine ⟨?_, addAfPair_raised _ _ hf hraised, addAfPair_isValid _ _ hf⟩
  rw [addAfPair_eq]
  exact hf.view_pair _ _

end Sys2Proof.Machine
end

section
/-! Block C of a 0B group (R174): it goes into the Group record, which no stage of the group reads. -/

namespace Sys2Proof.Machine

/-- The state with the Group record given. -/
def State.setGroup (g : Group) (s : State) : State := { s with rdsGroup := g }

theorem acceptTa_setGroup (x : Bool) (g : Group) : Function.Commute (acceptTa x) (State.setGroup g) := fun s => by
  rw [acceptTa_eq, acceptTa_eq]; rfl

theorem acceptMs_setGroup (x : Bool) (g : Group) : Function.Commute (acceptMs x) (State.setGroup g) := fun s => by
  rw [acceptMs_eq, acceptMs_eq]; rfl

theorem addPs_setGroup (pos : Fin 8) (ch : Byte) (g : Group) : Function.Commute (addPs pos ch) (State.setGroup g) := fun s => by
  rw [addPs_eq, addPs_eq]; rfl

theorem publishPs_setGroup (g : Group) : Function.Commute publishPs (State.setGroup g) := fun s => by
  rw [publishPs_eq, publishPs_eq]; rfl

theorem stepDi_setGroup (seg : BitVec 2) (b : Bool) (g : Group) : Function.Commute (stepDi seg b) (State.setGroup g) := fun s => by
  by_cases h0 : seg = 0
  · subst h0; rfl
  by_cases hn : seg = s.nextDiSegment
  · by_cases h3 : seg = 3
    · subst h3
      rw [stepDi_last hn.symm, stepDi_last (s := s.setGroup g) hn.symm]; rfl
    · rw [stepDi_expected h0 hn h3, stepDi_expected (s := s.setGroup g) h0 hn h3]; rfl
  · rw [stepDi_other h0 hn, stepDi_other (s := s.setGroup g) h0 hn]; rfl

theorem basicTuning_setGroup (ta ms dibit : Bool) (seg : BitVec 2) (c0 c1 : Byte) (g : Group) :
    Function.Commute (basicTuning ta ms dibit seg c0 c1) (State.setGroup g) :=
  (stepDi_setGroup seg dibit g).comp_left ((publishPs_setGroup g).comp_left ((addPs_setGroup _ c1 g).comp_left
    ((addPs_setGroup _ c0 g).comp_left ((acceptMs_setGroup ms g).comp_left (acceptTa_setGroup ta g)))))

/-- The extractors put block C into the Group record and nowhere else (R142 to R147). -/
theorem extracted_other_c (a b d c c' : Word) (s : State) :
    s.extracted ⟨a, b, c', d⟩ = (s.extracted ⟨a, b, c, d⟩).setGroup (Group.ofBlocks ⟨a, b, c', d⟩) := by
  rw [State.extracted_eq, State.extracted_eq]; rfl

theorem afterGroup_g0b_other_c (pi : Word) (tp : Bool) (pty : BitVec 5) (ta ms dibit : Bool) (seg : BitVec 2) (xC xC' : Word)
    (c0 c1 : Byte) (a b c c' d : Word) (s : State) :
    afterGroup (.g0b pi tp pty ta ms dibit seg xC' c0 c1) ⟨a, b, c', d⟩ s
      = (afterGroup (.g0b pi tp pty ta ms dibit seg xC c0 c1) ⟨a, b, c, d⟩ s).setGroup (Group.ofBlocks ⟨a, b, c', d⟩) :=
  (congrArg (basicTuning ta ms dibit seg c0 c1) (extracted_other_c a b d c c' s)).trans (basicTuning_setGroup _ _ _ _ _ _ _ _)

/-- Settles O29: the frame of `G0B` leaves the set out, and its stages commute with writing the Group record. -/
theorem g0BReadsNoBlockC : Obligations.G0BReadsNoBlockC := by
  unfold Obligations.G0BReadsNoBlockC
  intro pi tp pty ta ms dibit seg xC xC' c0 c1 s hc
  have hframe := afterGroup_frame (.g0b pi tp pty ta ms dibit seg xC c0 c1)
    ⟨pi, blockB 0 .b tp pty (lowG0 ta ms dibit seg), xC, bytePair c0 c1⟩ s
  refine ⟨_, _, exec_group_next rfl hc, exec_group_next rfl hc, (hframe.1 .rdsAf ?_).symm, hframe.quiet ?_, ?_⟩
  · dsimp only [rowTouched]; decide
  · dsimp only [rowBits]; decide
  · rw [afterGroup_g0b_other_c (xC := xC) (c := xC)]; rfl

end Sys2Proof.Machine
end

section
/-! The slow-labelling codes of a 1A group (R190 to R192): the variant in block C selects the row, and the code in its low byte goes
through a validation buffer after the common extractors, which touch neither code. -/

namespace Sys2Proof.Machine

/-! ### The row a 1A group executes (R105, R190) -/

/-- A 1A group's instruction is the one its variant selects. -/
theorem eq_decodeG1A_of_encodes {i : Instr} {p : GroupBlocks} (h : Encodes i p) (hg : gidOf p = 1) (hver : verBOf p = false) :
    i = decodeG1A p (p.b.getLsbD 10) (p.b.extractLsb' 5 5) := by
  unfold gidOf at hg
  unfold verBOf at hver
  rw [← decodeGroup_of_encodes h, decodeGroup, hg, hver]
  rfl

section
variable {p : GroupBlocks} {tp : Bool} {pty : BitVec 5}

/-- Variant 0 (R191). -/
theorem decodeG1A_ecc (hv : p.c.extractLsb' 12 3 = 0) :
    decodeG1A p tp pty =
      .g1aEcc p.a tp pty (p.b.extractLsb' 0 5) (p.c.getLsbD 15) (p.c.extractLsb' 8 4) (p.c.extractLsb' 0 8) p.d := by
  rw [decodeG1A, hv]; rfl

/-- Variant 3 (R192). -/
theorem decodeG1A_lc (hv : p.c.extractLsb' 12 3 = 3) :
    decodeG1A p tp pty =
      .g1aLc p.a tp pty (p.b.extractLsb' 0 5) (p.c.getLsbD 15) (p.c.extractLsb' 8 4) (p.c.extractLsb' 0 8) p.d := by
  rw [decodeG1A, hv]; rfl

end

/-! ### A validation buffer after stages that leave its field alone (R141) -/

/-- The two flag words are written under the accept test only, in a state `u` in which the field is still as it was in `s`. -/
theorem Observed.of_flags {w : Nat} {f : Field} {x stg pub pub' : BitVec w} {s u t : State} (hq : Quiet f s u)
    (hp : pub' = if accepts pub stg x then x else pub)
    (hv : t.validFields = if accepts pub stg x then u.validFields ||| f.mask else u.validFields)
    (hm : t.updMask = if accepts pub stg x then u.updMask ||| f.mask else u.updMask) : Observed f x stg pub pub' s t := by
  obtain ⟨hvalid, hraised⟩ := hq
  have hflag (v : Mask) : (if accepts pub stg x then v ||| f.mask else v).getLsbD f.pos = (v.getLsbD f.pos || accepts pub stg x) := by
    split
    · rename_i ha; rw [getLsbD_or_mask, ha, decide_eq_true rfl]
    · rename_i ha; rw [Bool.eq_false_iff.mpr ha, Bool.or_false]
  refine .of_accepts hp ?_ ?_
  · rw [← hvalid]; unfold State.isValid; rw [hv, hflag]
  · unfold State.raised at hraised ⊢; rw [hm, hflag, hraised, Bool.false_or]

theorem observeEcc_extracted (x : Byte) (p : GroupBlocks) (s : State) :
    Observed .ecc x s.newEcc s.ecc (observeEcc x (s.extracted p)).ecc s (observeEcc x (s.extracted p)) := by
  obtain ⟨hregs, -⟩ := extracted_frame p s
  have hstg : s.newEcc = (s.extracted p).newEcc := hregs .newEcc (by decide)
  have hpub : s.ecc = (s.extracted p).ecc := hregs .ecc (by decide)
  rw [hstg, hpub, observeEcc_eq]
  exact .of_flags ((extracted_frame p s).quiet (by decide)) rfl rfl rfl

theorem observeLc_extracted (x : Byte) (p : GroupBlocks) (s : State) :
    Observed .lc x s.newLc s.lc (observeLc x (s.extracted p)).lc s (observeLc x (s.extracted p)) := by
  obtain ⟨hregs, -⟩ := extracted_frame p s
  have hstg : s.newLc = (s.extracted p).newLc := hregs .newLc (by decide)
  have hpub : s.lc = (s.extracted p).lc := hregs .lc (by decide)
  rw [hstg, hpub, observeLc_eq]
  exact .of_flags ((extracted_frame p s).quiet (by decide)) rfl rfl rfl

/-! ### The two codes -/

/-- Settles O30: variant 0 decodes to the ECC row, which is the extractors, then the buffer over the low byte of block C. -/
theorem eccIsAcceptedTwice : Obligations.EccIsAcceptedTwice := by
  unfold Obligations.EccIsAcceptedTwice
  intro i p s he hg hver hvar hc
  have hrow := (eq_decodeG1A_of_encodes he hg hver).trans (decodeG1A_ecc hvar)
  have hafter : afterGroup i p s = observeEcc (p.c.extractLsb' 0 8) (s.extracted p) := by rw [hrow]; rfl
  refine ⟨afterGroup i p s, exec_group_next he.2 hc, ?_⟩
  rw [hafter]
  exact ⟨by rw [observeEcc_eq], observeEcc_extracted _ p s,
    (extracted_frame p s).append ⟨observeEcc_untouched _ _, observeEcc_bits _ _⟩ (by decide) (by decide)⟩

/-- Settles O31: variant 3 decodes to the LC row, which is the extractors, then the buffer over the low byte of block C. -/
theorem lcIsAcceptedTwice : Obligations.LcIsAcceptedTwice := by
  unfold Obligations.LcIsAcceptedTwice
  intro i p s he hg hver hvar hc
  have hrow := (eq_decodeG1A_of_encodes he hg hver).trans (decodeG1A_lc hvar)
  have hafter : afterGroup i p s = observeLc (p.c.extractLsb' 0 8) (s.extracted p) := by rw [hrow]; rfl
  refine ⟨afterGroup i p s, exec_group_next he.2 hc, ?_⟩
  rw [hafter]
  exact ⟨by rw [observeLc_eq], observeLc_extracted _ p s,
    (extracted_frame p s).append ⟨observeLc_untouched _ _, observeLc_bits _ _⟩ (by decide) (by decide)⟩

end Sys2Proof.Machine
end

section
/-! A group of type 2 (R200) as a chain of states over the group's payloads: the common extractors, the toggle, the store of an accepted
segment, its completion, and then the scan for 0x0D and the comparison. The staged text of the third of these states is the one the
statements speak of, and every publication shows a part of it. -/

namespace Sys2Proof.Machine

/-! ### The stages -/

/-- The store of the group's characters (R203). -/
def rtStore (p : GroupBlocks) : State → State :=
  if verBOf p then storeRtB (p.b.extractLsb' 0 4) (p.d.extractLsb' 8 8) (p.d.extractLsb' 0 8)
  else storeRtA (p.b.extractLsb' 0 4) (p.c.extractLsb' 8 8) (p.c.extractLsb' 0 8) (p.d.extractLsb' 8 8) (p.d.extractLsb' 0 8)

/-- After the toggle (R201). -/
def State.rtToggled (p : GroupBlocks) (s : State) : State := toggleRt (p.b.getLsbD 4) (s.extracted p)

/-- After the store of an accepted segment (R202, R203). -/
def State.rtStored (p : GroupBlocks) (s : State) : State := if rtTakes p s then rtStore p (s.rtToggled p) else s.rtToggled p

/-- After the completion by segment 15 (R203, R204). -/
def State.rtCompleted (p : GroupBlocks) (s : State) : State :=
  if rtTakes p s ∧ rtSegmentOf p = 15 then publishRt (rtFullLength p) (s.rtStored p) else s.rtStored p

/-- What the two type-2 rows leave. -/
theorem afterGroup_type2 {i : Instr} {p : GroupBlocks} (he : encodeGroup i = some p) (hg : gidOf p = 2) (s : State) :
    afterGroup i p s = radioText (p.b.getLsbD 4) (p.b.extractLsb' 0 4) (rtStore p) (rtFullLength p) (s.extracted p) := by
  cases i with
  | g2a | g2b =>
    cases he
    simp only [rtStore, rtFullLength, verBOf, blockB_ver, blockB_low _ _ _ _ _ 0 4 (by decide),
      blockB_low_bit _ _ _ _ _ 4 (by decide), lowG2_ab, lowG2_seg, bytePair_msb, bytePair_lsb]
    rfl
  | _ => cases he <;> simp [gidOf, blockB_gid] at hg

/-! ### The store (R203) -/

theorem rtStore_untouched (p : GroupBlocks) (s : State) : Untouched [.newRt, .nextRtSegment] s (rtStore p s) := by
  unfold rtStore
  split
  · exact storeRtB_untouched _ _ _ s
  · exact storeRtA_untouched _ _ _ _ _ s

theorem rtStore_bits (p : GroupBlocks) (s : State) : BitsKept [.rt] s (rtStore p s) := by
  unfold rtStore
  split
  · exact storeRtB_bits _ _ _ s
  · exact storeRtA_bits _ _ _ _ _ s

theorem rtStore_nextRtSegment (p : GroupBlocks) (s : State) : (rtStore p s).nextRtSegment.toNat = rtSegmentOf p + 1 := by
  have hnext : (rtStore p s).nextRtSegment = (p.b.extractLsb' 0 4).setWidth 5 + 1 := by unfold rtStore; split <;> rfl
  have hlt := (p.b.extractLsb' 0 4).isLt
  have hval : ((p.b.extractLsb' 0 4).setWidth 5 + 1).toNat = ((p.b.extractLsb' 0 4).toNat + 1) % 32 := by simp
  rw [hnext, hval, rtSegmentOf]
  omega

/-- A position shows character `j` of its segment of `n` characters, or what it showed before. -/
theorem eq_segment_ite {n seg k : Nat} {cs : List Byte} {new old : Byte} (hin : ∀ j : Fin n, k = n * seg + j.val → new = cs.getD j.val 0)
    (hout : (∀ j : Fin n, k ≠ n * seg + j.val) → new = old) :
    new = if n * seg ≤ k ∧ k < n * seg + n then cs.getD (k - n * seg) 0 else old := by
  split
  · exact hin ⟨k - n * seg, by omega⟩ (by dsimp only; omega)
  · exact hout fun j => by have := j.isLt; omega

theorem storeRtA_newRt (seg : BitVec 4) (c0 c1 c2 c3 : Byte) (s : State) (k : Fin 64) :
    (storeRtA seg c0 c1 c2 c3 s).newRt[k] =
      if 4 * seg.toNat ≤ k.val ∧ k.val < 4 * seg.toNat + 4 then [c0, c1, c2, c3].getD (k.val - 4 * seg.toNat) 0 else s.newRt[k] := by
  simp only [storeRtA, getElem_set_fin]
  refine eq_segment_ite (fun j hj => ?_) fun hout => ?_
  · obtain rfl : k = rtPosA seg j := Fin.ext hj
    fin_cases j <;> simp [rtPosA]
  · have hne (j : Fin 4) : k ≠ rtPosA seg j := fun h => hout j (Fin.ext_iff.mp h)
    simp only [if_neg (hne _)]

theorem storeRtB_newRt (seg : BitVec 4) (c0 c1 : Byte) (s : State) (k : Fin 64) :
    (storeRtB seg c0 c1 s).newRt[k] =
      if 2 * seg.toNat ≤ k.val ∧ k.val < 2 * seg.toNat + 2 then [c0, c1].getD (k.val - 2 * seg.toNat) 0 else s.newRt[k] := by
  simp only [storeRtB, getElem_set_fin]
  refine eq_segment_ite (fun j hj => ?_) fun hout => ?_
  · obtain rfl : k = rtPosB seg j := Fin.ext hj
    fin_cases j <;> simp [rtPosB]
  · have hne (j : Fin 2) : k ≠ rtPosB seg j := fun h => hout j (Fin.ext_iff.mp h)
    simp only [if_neg (hne _)]

theorem rtStore_newRt (p : GroupBlocks) (s : State) (k : Fin 64) :
    (rtStore p s).newRt[k] =
      if (rtCharsOf p).length * rtSegmentOf p ≤ k.val ∧ k.val < (rtCharsOf p).length * rtSegmentOf p + (rtCharsOf p).length then
        (rtCharsOf p).getD (k.val - (rtCharsOf p).length * rtSegmentOf p) 0
      else s.newRt[k] := by
  unfold rtStore rtCharsOf
  split
  · exact storeRtB_newRt _ _ _ s k
  · exact storeRtA_newRt _ _ _ _ _ s k

/-! ### The toggle (R201) -/

/-- The toggle in terms of the state before the group, whose radio text the extractors leave alone. -/
theorem State.rtToggled_eq (p : GroupBlocks) (s : State) :
    s.rtToggled p = { s.extracted p with
      rtAbFlag := p.b.getLsbD 4
      newRt := if rtToggles p s then Vector.replicate _ 0 else s.newRt
      rt := if rtToggles p s then Vector.replicate _ 0 else s.rt
      rtLength := if rtToggles p s then 0 else s.rtLength
      nextRtSegment := if rtToggles p s then 0 else s.nextRtSegment
      validFields := if rtToggles p s then (s.extracted p).validFields &&& ~~~Field.rt.mask else (s.extracted p).validFields
      updMask := if rtToggles p s then (s.extracted p).updMask ||| Field.rt.mask else (s.extracted p).updMask } := by
  have hiff : p.b.getLsbD 4 = s.rtAbFlag ↔ ¬rtToggles p s = true := by simp [rtToggles]
  rw [State.rtToggled, toggleRt_eq]
  simp only [State.extracted_eq, hiff, ite_not]

theorem rtToggled_isValid (p : GroupBlocks) (s : State) : (s.rtToggled p).isValid .rt = (s.isValid .rt && !rtToggles p s) := by
  have hold : (s.extracted p).validFields.getLsbD Field.rt.pos = s.isValid .rt := ((extracted_frame p s).quiet (by decide)).1
  rw [State.rtToggled_eq, State.isValid, ← hold]
  dsimp only
  cases rtToggles p s with
  | true => rw [if_pos rfl, getLsbD_clear_mask, decide_eq_true rfl]
  | false => simp

theorem rtToggled_nextRtSegment (p : GroupBlocks) (s : State) : (s.rtToggled p).nextRtSegment.toNat = rtExpects p s := by
  rw [State.rtToggled_eq, rtExpects]
  exact apply_ite _ _ _ _

/-- The test of R202 in the toggled state. -/
theorem rtToggled_accepts (p : GroupBlocks) (s : State) : acceptsRtSegment (p.b.extractLsb' 0 4) (s.rtToggled p) = rtTakes p s := by
  have hzero : p.b.extractLsb' 0 4 = 0 ↔ rtSegmentOf p = 0 := by rw [← BitVec.toNat_inj]; rfl
  have hnext : (p.b.extractLsb' 0 4).setWidth 5 = (s.rtToggled p).nextRtSegment ↔ rtSegmentOf p = rtExpects p s := by
    rw [← BitVec.toNat_inj, rtToggled_nextRtSegment, BitVec.toNat_setWidth_of_le (by decide)]; rfl
  unfold acceptsRtSegment rtTakes
  simp only [beq_eq_decide, hzero, hnext, Bool.decide_or]

/-! ### The store of an accepted segment (R202, R203) -/

/-- The staged text is the one the statements speak of. -/
theorem rtStored_newRt (p : GroupBlocks) (s : State) (k : Fin 64) : (s.rtStored p).newRt[k] = rtStagedAt p s k := by
  have hold : (s.rtToggled p).newRt[k] = if rtToggles p s then 0 else s.newRt[k] := by
    rw [State.rtToggled_eq]; dsimp only; split <;> simp
  unfold State.rtStored rtStagedAt
  by_cases ht : rtTakes p s = true
  · simp only [ht, if_true, true_and, rtStore_newRt, hold]
  · rw [if_neg ht, if_neg fun h => ht h.1, hold]

theorem rtStored_nextRtSegment (p : GroupBlocks) (s : State) :
    (s.rtStored p).nextRtSegment.toNat = if rtTakes p s then rtSegmentOf p + 1 else rtExpects p s := by
  unfold State.rtStored
  split
  · exact rtStore_nextRtSegment p _
  · exact rtToggled_nextRtSegment p s

/-- The store leaves the public text as the toggle left it. -/
theorem rtToggled_untouched (p : GroupBlocks) (s : State) : Untouched [.newRt, .nextRtSegment] (s.rtToggled p) (s.rtStored p) := by
  unfold State.rtStored
  split
  · exact rtStore_untouched p _
  · exact .refl _ _

theorem rtStored_rt (p : GroupBlocks) (s : State) :
    (s.rtStored p).rt = if rtToggles p s then Vector.replicate _ 0 else s.rt := by
  have hrt : (s.rtToggled p).rt = (s.rtStored p).rt := rtToggled_untouched p s .rt (by decide)
  rw [← hrt, State.rtToggled_eq]

theorem rtStored_rtLength (p : GroupBlocks) (s : State) : (s.rtStored p).rtLength = if rtToggles p s then 0 else s.rtLength := by
  have hlen : (s.rtToggled p).rtLength = (s.rtStored p).rtLength := rtToggled_untouched p s .rtLength (by decide)
  rw [← hlen, State.rtToggled_eq]

theorem rtStored_rt_getElem (p : GroupBlocks) (s : State) (k : Fin 64) : (s.rtStored p).rt[k] = rtPublicAt p s k := by
  rw [rtStored_rt, rtPublicAt]
  split <;> simp

theorem rtStored_rtLength_toNat (p : GroupBlocks) (s : State) : (s.rtStored p).rtLength.toNat = rtPublicLength p s := by
  rw [rtStored_rtLength, rtPublicLength]
  exact apply_ite _ _ _ _

theorem rtStored_isValid (p : GroupBlocks) (s : State) : (s.rtStored p).isValid .rt = (s.isValid .rt && !rtToggles p s) := by
  have hvalid : (s.rtToggled p).validFields = (s.rtStored p).validFields := rtToggled_untouched p s .validFields (by decide)
  rw [← rtToggled_isValid, State.isValid, ← hvalid, State.isValid]

/-! ### Publication (R203, R204) -/

theorem takeRtSegment_rtToggled (p : GroupBlocks) (s : State) :
    takeRtSegment (p.b.extractLsb' 0 4) (rtStore p) (rtFullLength p) (s.rtToggled p) = s.rtCompleted p := by
  have hseg : p.b.extractLsb' 0 4 = 15 ↔ rtSegmentOf p = 15 := by rw [← BitVec.toNat_inj]; rfl
  unfold takeRtSegment State.rtCompleted State.rtStored
  rw [rtToggled_accepts]
  by_cases ht : rtTakes p s = true
  · simp only [ht, if_true, true_and, hseg]
  · rw [if_neg ht, if_neg fun h => ht h.1, if_neg ht]

theorem rtText_getElem (len : Nat) (staged : Chars 64) (k : Fin 64) :
    (rtText len staged)[k] = if k.val < len then staged[k] else 0 := by
  simp [rtText]

theorem publishRt_isValid (len : Nat) (s : State) : (publishRt len s).isValid .rt = true := by
  rw [publishRt_eq, State.isValid, getLsbD_or_mask, decide_eq_true rfl, Bool.or_true]

theorem publishRt_rtLength {len : Nat} (h : len < 128) (s : State) : (publishRt len s).rtLength.toNat = len := by
  rw [publishRt_eq, BitVec.toNat_ofNat, Nat.mod_eq_of_lt h]

/-- Completion stages nothing. -/
theorem rtCompleted_newRt (p : GroupBlocks) (s : State) (k : Fin 64) : (s.rtCompleted p).newRt[k] = rtStagedAt p s k := by
  have hnew : (s.rtCompleted p).newRt = (s.rtStored p).newRt := by
    unfold State.rtCompleted
    split
    · rw [publishRt_eq]
    · rfl
  rw [hnew, rtStored_newRt]

/-! ### The scan (R205) -/

theorem firstTerminator_eq_none {staged : Chars 64} (h : ∀ k : Fin 64, staged[k] ≠ 0x0D) : firstTerminator staged = none := by
  rw [firstTerminator, List.find?_eq_none]
  intro k _ hk
  exact h k (eq_of_beq hk)

theorem firstTerminator_eq_some {staged : Chars 64} {m : Fin 64} (hm : staged[m] = 0x0D) (h : ∀ k < m, staged[k] ≠ 0x0D) :
    firstTerminator staged = some m := by
  rw [firstTerminator, List.find?_eq_some_iff_getElem]
  refine ⟨beq_iff_eq.mpr hm, m.val, by simp, by simp, fun j hj => ?_⟩
  have hne := h ⟨j, hj.trans m.isLt⟩ hj
  simpa using hne

theorem terminateRt_none {s : State} (h : ∀ k : Fin 64, s.newRt[k] ≠ 0x0D) : terminateRt s = s := by
  rw [terminateRt, firstTerminator_eq_none h]

theorem terminateRt_some {s : State} {m : Fin 64} (hm : s.newRt[m] = 0x0D) (h : ∀ k < m, s.newRt[k] ≠ 0x0D) :
    terminateRt s = publishRt m.val { s with newRt := s.newRt.set m 0 } := by
  rw [terminateRt, firstTerminator_eq_some hm h]

/-! ### What the two rows leave -/

section
variable {i : Instr} {p : GroupBlocks} (he : encodeGroup i = some p) (hg : gidOf p = 2) (s : State)
include he hg

theorem afterGroup_type2_frame :
    GroupFrame [.rtAbFlag, .newRt, .rt, .rtLength, .nextRtSegment] [.rt] s (afterGroup i p s) := by
  rw [afterGroup_type2 he hg]
  exact (extracted_frame p s).append
    ⟨radioText_untouched _ (rtStore_untouched p) _ _ _, radioText_bits _ (rtStore_bits p) _ _ _⟩ (by decide) (by decide)

theorem afterGroup_rtAbFlag : (afterGroup i p s).rtAbFlag = p.b.getLsbD 4 := by
  rw [afterGroup_type2 he hg]
  exact radioText_flag _ (rtStore_untouched p) _ _ _

/-- The mask bit compares with the text and the length before the group (R151, R204, log 10). -/
theorem afterGroup_raised_rt :
    (afterGroup i p s).raised .rt =
      (rtToggles p s || decide ((afterGroup i p s).rt ≠ s.rt ∨ (afterGroup i p s).rtLength ≠ s.rtLength)) := by
  have hreports : Reports .rt (s.extracted p) (afterGroup i p s) := by
    rw [afterGroup_type2 he hg]; exact radioText_reports _ (rtStore_untouched p) _ _ _
  have hraised : (s.extracted p).raised .rt = false := extracted_raised_other p s (by decide)
  have hrt : s.rt = (s.extracted p).rt := extracted_untouched p s .rt (by decide)
  have hlen : s.rtLength = (s.extracted p).rtLength := extracted_untouched p s .rtLength (by decide)
  have hflag : s.rtAbFlag = (s.extracted p).rtAbFlag := extracted_untouched p s .rtAbFlag (by decide)
  simp only [Reports, Field.sameValue, hraised, ← hrt, ← hlen, ← hflag, afterGroup_rtAbFlag he hg] at hreports
  rw [Bool.eq_iff_iff, hreports]
  simp only [rtToggles, Bool.or_eq_true, bne_iff_ne, decide_eq_true_eq, eq_comm (a := s.rt), eq_comm (a := s.rtLength),
    eq_comm (a := s.rtAbFlag), ne_eq]
  tauto

/-- The comparison that ends the group writes the mask only, so the text is as the scan leaves it. -/
theorem afterGroup_text {u : State} (hu : terminateRt (s.rtCompleted p) = u) :
    (afterGroup i p s).newRt = u.newRt ∧ (afterGroup i p s).rt = u.rt ∧ (afterGroup i p s).rtLength = u.rtLength
      ∧ (afterGroup i p s).nextRtSegment = u.nextRtSegment ∧ (afterGroup i p s).isValid .rt = u.isValid .rt := by
  have hafter : afterGroup i p s = reportRt (s.extracted p) u := by
    rw [← hu, ← takeRtSegment_rtToggled, afterGroup_type2 he hg]; rfl
  rw [hafter, reportRt_eq]
  exact ⟨rfl, rfl, rfl, rfl, rfl⟩

end

/-! ### The three statements -/

/-- Settles O32: neither completion nor the scan publishes, so the group leaves the state after the store. -/
theorem radioTextSegmentIsStaged : Obligations.RadioTextSegmentIsStaged := by
  unfold Obligations.RadioTextSegmentIsStaged
  intro i p s he hg hc hnone hopen
  have hu : terminateRt (s.rtCompleted p) = s.rtStored p := by
    rw [terminateRt_none fun k => by rw [rtCompleted_newRt]; exact hnone k, State.rtCompleted, if_neg hopen]
  obtain ⟨hnew, hrt, hlen, hnext, hvalid⟩ := afterGroup_text he hg s hu
  refine ⟨afterGroup i p s, exec_group_next he hc, afterGroup_rtAbFlag he hg s, fun k => ⟨?_, ?_⟩, ?_, ?_, ?_, ?_,
    afterGroup_type2_frame he hg s⟩
  · rw [hnew, rtStored_newRt]
  · rw [hrt, rtStored_rt_getElem]
  · rw [hlen, rtStored_rtLength_toNat]
  · rw [hnext, rtStored_nextRtSegment]
  · rw [hvalid, rtStored_isValid]
  · rw [afterGroup_raised_rt he hg, hrt, hlen, rtStored_rt, rtStored_rtLength]
    cases rtToggles p s <;> simp

/-- After a toggle segment 0 is expected, so segment 15 is not accepted (R201, R202). -/
theorem rtToggles_of_takes_15 {p : GroupBlocks} {s : State} (ht : rtTakes p s = true) (h15 : rtSegmentOf p = 15) :
    rtToggles p s = false := by
  rw [rtTakes, decide_eq_true_eq, h15, rtExpects] at ht
  cases htog : rtToggles p s with
  | true => simp [htog] at ht
  | false => rfl

theorem rtFullLength_le (p : GroupBlocks) : rtFullLength p ≤ 64 := by
  unfold rtFullLength
  split <;> decide

/-- Settles O33: completion publishes the staged text, and the scan finds nothing in it. -/
theorem radioTextIsPublishedBySegment15 : Obligations.RadioTextIsPublishedBySegment15 := by
  unfold Obligations.RadioTextIsPublishedBySegment15
  intro i p s he hg hc hnone ht h15
  have hu : terminateRt (s.rtCompleted p) = publishRt (rtFullLength p) (s.rtStored p) := by
    rw [terminateRt_none fun k => by rw [rtCompleted_newRt]; exact hnone k, State.rtCompleted, if_pos ⟨ht, h15⟩]
  obtain ⟨hnew, hrt, hlen, hnext, hvalid⟩ := afterGroup_text he hg s hu
  have hfull := rtFullLength_le p
  refine ⟨afterGroup i p s, exec_group_next he hc, fun k => ⟨?_, ?_⟩, ?_, ?_, ⟨?_, ?_⟩, afterGroup_rtAbFlag he hg s,
    afterGroup_type2_frame he hg s⟩
  · rw [hnew, publishRt_eq, rtStored_newRt]
  · rw [hrt, publishRt_eq, rtText_getElem, rtStored_newRt]
  · rw [hlen, publishRt_rtLength (by omega)]
  · rw [hnext, publishRt_eq]
  · rw [hvalid, publishRt_isValid]
  · rw [afterGroup_raised_rt he hg, rtToggles_of_takes_15 ht h15, Bool.false_or]

/-- Settles O34: the scan publishes the text up to the least 0x0D, over whatever completion published before it. -/
theorem radioTextEndsAtTheTerminator : Obligations.RadioTextEndsAtTheTerminator := by
  unfold Obligations.RadioTextEndsAtTheTerminator
  intro i p s m he hg hc hm hleast
  have hu := terminateRt_some (s := s.rtCompleted p) (m := m) (by rw [rtCompleted_newRt, hm])
    fun k hk => by rw [rtCompleted_newRt]; exact hleast k hk
  obtain ⟨hnew, hrt, hlen, hnext, hvalid⟩ := afterGroup_text he hg s hu
  refine ⟨afterGroup i p s, exec_group_next he hc, fun k => ⟨?_, ?_⟩, ?_, ?_, ?_, afterGroup_raised_rt he hg s,
    afterGroup_rtAbFlag he hg s, afterGroup_type2_frame he hg s⟩
  · rw [hnew, publishRt_eq]
    exact (getElem_set_fin _ m k 0).trans (by rw [rtCompleted_newRt])
  · rw [hrt, publishRt_eq, rtText_getElem]
    by_cases hk : k < m
    · rw [if_pos (Fin.lt_def.mp hk), if_pos hk, getElem_set_fin, if_neg hk.ne, rtCompleted_newRt]
    · rw [if_neg (mt Fin.lt_def.mpr hk), if_neg hk]
  · rw [hlen, publishRt_rtLength (by omega)]
  · rw [hnext, publishRt_eq]
  · rw [hvalid, publishRt_isValid]

end Sys2Proof.Machine
end

section
/-! The open-data-application table as a list of rows (R221): an announcement replaces the AID of the row it names, appends a row, or
finds the table full. -/

namespace Sys2Proof.Machine

/-! ### The row an announcement names -/

/-- The table has a row for that group type. -/
def OdaTable.Knows (t : OdaTable) (gid : BitVec 4) (ver : Version) : Prop := ∃ r ∈ t.rows, r.groupId = gid ∧ r.version = ver

theorem OdaRow.key_eq_iff {r : OdaRow} {gid : BitVec 4} {ver : Version} : r.key = (gid, ver) ↔ r.groupId = gid ∧ r.version = ver :=
  Prod.mk_inj

theorem OdaTable.find_eq_none_iff {t : OdaTable} {gid : BitVec 4} {ver : Version} : t.find gid ver = none ↔ ¬t.Knows gid ver := by
  constructor
  · rintro hf ⟨r, hr, hk⟩
    exact OdaTable.key_notMem_of_find_none hf (List.mem_map.mpr ⟨r, hr, OdaRow.key_eq_iff.mpr hk⟩)
  · intro hn
    cases hf : t.find gid ver with
    | none => rfl
    | some i =>
      obtain ⟨hi, hk⟩ := OdaTable.find_some hf
      exact absurd ⟨t.oda[i], List.mem_of_getElem? (OdaTable.getElem_rows hi), OdaRow.key_eq_iff.mp hk⟩ hn

theorem OdaTable.length_rows {t : OdaTable} (h : t.size ≤ 18) : t.rows.length = t.size := by
  unfold OdaTable.rows
  rw [List.length_take, Vector.length_toList]
  exact Nat.min_eq_left h

/-! ### The three cases -/

/-- Where the keys are unique, to set the row at a position is to replace the row of its key. -/
theorem set_eq_map_of_key {l : List OdaRow} (h : (l.map OdaRow.key).Nodup) {k : Nat} (hk : k < l.length) (row : OdaRow) :
    l.set k row = l.map fun r => if r.key = l[k].key then row else r := by
  refine List.ext_getElem (by rw [List.length_set, List.length_map]) fun n hn _ => ?_
  rw [List.length_set] at hn
  have hkey : l[n].key = l[k].key ↔ k = n := by
    rw [← h.getElem_inj_iff (hi := by rwa [List.length_map]) (hj := by rwa [List.length_map]), List.getElem_map, List.getElem_map,
      eq_comm]
  simp only [List.getElem_set, List.getElem_map, hkey]

/-- A known group type: the AID is replaced. -/
theorem OdaTable.rows_update_known {t : OdaTable} (hu : (t.rows.map OdaRow.key).Nodup) {gid : BitVec 4} {ver : Version}
    (h : t.Knows gid ver) (aid : Word) :
    (t.update gid ver aid).rows = t.rows.map (fun r => if r.groupId = gid ∧ r.version = ver then ⟨gid, ver, aid⟩ else r)
      ∧ t.appends gid ver = false := by
  cases hf : t.find gid ver with
  | none => exact absurd h (OdaTable.find_eq_none_iff.mp hf)
  | some i =>
    obtain ⟨hi, hk⟩ := OdaTable.find_some hf
    obtain ⟨hl, hrow⟩ := List.getElem?_eq_some_iff.mp (OdaTable.getElem_rows hi)
    obtain ⟨hgid, hver⟩ := OdaRow.key_eq_iff.mp hk
    unfold OdaTable.update OdaTable.appends
    rw [hf]
    refine ⟨?_, rfl⟩
    rw [OdaTable.rows_replace, set_eq_map_of_key hu hl, hrow, hk]
    simp only [OdaRow.key_eq_iff, hgid, hver]

/-- A new group type and a free row: the row is appended. -/
theorem OdaTable.rows_update_new {t : OdaTable} {gid : BitVec 4} {ver : Version} (h : ¬t.Knows gid ver) (hlt : t.size < 18)
    (aid : Word) : (t.update gid ver aid).rows = t.rows ++ [⟨gid, ver, aid⟩] ∧ t.appends gid ver = true := by
  unfold OdaTable.update OdaTable.appends
  rw [OdaTable.find_eq_none_iff.mpr h, decide_eq_true hlt]
  dsimp only
  rw [dif_pos hlt, OdaTable.rows_append]
  exact ⟨rfl, rfl⟩

/-- A new group type and no free row. -/
theorem OdaTable.update_full {t : OdaTable} {gid : BitVec 4} {ver : Version} (h : ¬t.Knows gid ver) (hfull : ¬t.size < 18)
    (aid : Word) : t.update gid ver aid = t ∧ t.appends gid ver = false := by
  unfold OdaTable.update OdaTable.appends
  rw [OdaTable.find_eq_none_iff.mpr h, decide_eq_false hfull]
  exact ⟨dif_neg hfull, rfl⟩

end Sys2Proof.Machine
end

section
/-! A 3A group (R220): the common extractors and the ODA row, which every one of its four rows begins with, then what a TMC system row
adds, which touches neither the table nor its bit. -/

namespace Sys2Proof.Machine

/-! ### The ODA row of the group -/

/-- After the ODA row (R221). -/
def State.announced (p : GroupBlocks) (s : State) : State :=
  updateOda (p.b.extractLsb' 1 4) (Version.ofBit (p.b.getLsbD 0)) p.d (s.extracted p)

theorem announced_frame (p : GroupBlocks) (s : State) : GroupFrame [.rdsOda, .decodeInformation] [.oda] s (s.announced p) :=
  (extracted_frame p s).append ⟨updateOda_untouched _ _ _ _, updateOda_bits _ _ _ _⟩ (by decide) (by decide)

theorem announced_rdsOda (p : GroupBlocks) (s : State) :
    (s.announced p).rdsOda = s.rdsOda.update (p.b.extractLsb' 1 4) (Version.ofBit (p.b.getLsbD 0)) p.d := by
  have hoda : s.rdsOda = (s.extracted p).rdsOda := extracted_untouched p s .rdsOda (by decide)
  rw [State.announced, updateOda_eq, hoda]

theorem announced_decodeInformation (p : GroupBlocks) (s : State) :
    (s.announced p).decodeInformation =
      if s.rdsOda.appends (p.b.extractLsb' 1 4) (Version.ofBit (p.b.getLsbD 0)) then s.decodeInformation ||| 1
      else s.decodeInformation := by
  have hoda : s.rdsOda = (s.extracted p).rdsOda := extracted_untouched p s .rdsOda (by decide)
  have hinfo : s.decodeInformation = (s.extracted p).decodeInformation := extracted_untouched p s .decodeInformation (by decide)
  rw [State.announced, updateOda_eq, hoda, hinfo]
  rfl

theorem announced_raised (p : GroupBlocks) (s : State) :
    (s.announced p).raised .oda = decide ((s.announced p).rdsOda.rows ≠ s.rdsOda.rows) := by
  have hreports : Reports .oda (s.extracted p) (s.announced p) := (updateOda_sound _ _ _ _).reports rfl
  have hraised : (s.extracted p).raised .oda = false := extracted_raised_other p s (by decide)
  have hoda : s.rdsOda = (s.extracted p).rdsOda := extracted_untouched p s .rdsOda (by decide)
  simp only [Reports, Field.sameValue, hraised, ← hoda, Bool.false_eq_true, false_or] at hreports
  rw [Bool.eq_iff_iff, hreports, decide_eq_true_eq, ne_comm]

theorem announced_isValid (p : GroupBlocks) (s : State) : (s.announced p).isValid .oda = s.isValid .oda := by
  have hvalid : (s.announced p).isValid .oda = (s.extracted p).isValid .oda := by rw [State.announced, updateOda_eq]; rfl
  have hquiet : Quiet .oda s (s.extracted p) := (extracted_frame p s).quiet (by decide)
  exact hvalid.trans hquiet.1

/-! ### What a TMC system row adds -/

theorem announced_lowG3 (pi : Word) (tp : Bool) (pty : BitVec 5) (gid : BitVec 4) (ver : Version) (c aid : Word) (s : State) :
    s.announced ⟨pi, blockB 3 .a tp pty (lowG3 gid ver), c, aid⟩ =
      updateOda gid ver aid (s.extracted ⟨pi, blockB 3 .a tp pty (lowG3 gid ver), c, aid⟩) := by
  rw [State.announced, blockB_low _ _ _ _ _ 1 4 (by decide), blockB_low_bit _ _ _ _ _ 0 (by decide), lowG3_gid, lowG3_ver, ofBit_bit]

theorem stageTmcSys_confined {f : State → State} (hf : ∀ s, Confined [.tmcSys, .validFields, .updMask] [.tmcSys] s (f s)) (g : Group)
    (s : State) : Confined [.prevTmcSysGroup, .tmcSys, .validFields, .updMask] [.tmcSys] s (stageTmcSys g f s) :=
  ⟨stageTmcSys_untouched (fun s => (hf s).regs) g s, stageTmcSys_bits (fun s => (hf s).bits) g s⟩

theorem setTmcSys_confined (v : TmcSys) (s : State) : Confined [.tmcSys, .validFields, .updMask] [.tmcSys] s (setTmcSys v s) :=
  ⟨setTmcSys_untouched v s, setTmcSys_bits v s⟩

theorem Confined.refl (cs : List Component) (fs : List Field) (s : State) : Confined cs fs s s := ⟨.refl cs s, .refl fs s⟩

/-- Whichever of the four rows the group is, after the ODA row it touches the TMC system registers and their bit only. -/
theorem announced_confined {i : Instr} {p : GroupBlocks} (he : encodeGroup i = some p) (hg : gidOf p = 3) (hver : verBOf p = false)
    (s : State) :
    Confined [.prevTmcSysGroup, .tmcSys, .validFields, .updMask] [.tmcSys] (s.announced p) (afterGroup i p s) := by
  cases i with
  | g3aTmcSys0 | g3aTmcSys1 =>
    cases he
    rw [announced_lowG3, afterGroup, rowDecoder]
    exact stageTmcSys_confined (fun s => setTmcSys_confined _ s) _ _
  | g3aTmcSysX =>
    cases he
    rw [announced_lowG3, afterGroup, rowDecoder]
    exact stageTmcSys_confined (Confined.refl _ _) _ _
  | g3a =>
    cases he
    rw [announced_lowG3]
    exact Confined.refl _ _ _
  | g3b =>
    cases he
    rw [verBOf, blockB_ver] at hver
    cases hver
  | _ => cases he <;> simp [gidOf, blockB_gid] at hg

/-- Settles O35: a TMC system row leaves the table as the ODA row of the group does, and the rows are replaced, appended to or full. -/
theorem odaRowIsAddedOrReplaced : Obligations.OdaRowIsAddedOrReplaced := by
  unfold Obligations.OdaRowIsAddedOrReplaced
  intro i p s he hg hver hc hsize huniq row known
  have hlater := announced_confined he hg hver s
  have hoda : (s.announced p).rdsOda = (afterGroup i p s).rdsOda := hlater.regs .rdsOda (by decide)
  have hinfo : (s.announced p).decodeInformation = (afterGroup i p s).decodeInformation := hlater.regs .decodeInformation (by decide)
  refine ⟨afterGroup i p s, exec_group_next he hc, ?_, ?_, ?_, ?_, ?_⟩
  · intro hknown
    obtain ⟨hrows, happ⟩ := OdaTable.rows_update_known huniq hknown p.d
    rw [← hoda, ← hinfo, announced_rdsOda, announced_decodeInformation]
    exact ⟨hrows, if_neg (Bool.eq_false_iff.mp happ)⟩
  · intro hnew hlt
    rw [OdaTable.length_rows hsize] at hlt
    obtain ⟨hrows, happ⟩ := OdaTable.rows_update_new hnew hlt p.d
    rw [← hoda, ← hinfo, announced_rdsOda, announced_decodeInformation]
    exact ⟨hrows, if_pos happ⟩
  · intro hnew hfull
    rw [OdaTable.length_rows hsize] at hfull
    obtain ⟨htable, happ⟩ := OdaTable.update_full hnew hfull.not_lt p.d
    rw [← hoda, ← hinfo, announced_rdsOda, announced_decodeInformation]
    exact ⟨htable, if_neg (Bool.eq_false_iff.mp happ)⟩
  · rw [hlater.bits.raised (by decide), announced_raised, hoda]
  · rw [hlater.bits.isValid (by decide), announced_isValid]

end Sys2Proof.Machine
end

section
/-! The row of a 3A group (R220, R223): the AID tells a TMC system group from another, and the variant in block C what a repeated one
decodes. -/

namespace Sys2Proof.Machine

/-! ### The row a 3A group executes (R105, R220) -/

/-- A 3A group's instruction is the one its AID and its variant select. -/
theorem eq_decodeG3A_of_encodes {i : Instr} {p : GroupBlocks} (h : Encodes i p) (hg : gidOf p = 3) (hver : verBOf p = false) :
    i = decodeG3A p (p.b.getLsbD 10) (p.b.extractLsb' 5 5) := by
  unfold gidOf at hg
  unfold verBOf at hver
  rw [← decodeGroup_of_encodes h, decodeGroup, hg, hver]
  rfl

/-- Settles O37: with another AID the group is the ODA row, whose frame is that of its decoder. -/
theorem otherOdaTouchesTheTableOnly : Obligations.OtherOdaTouchesTheTableOnly := by
  unfold Obligations.OtherOdaTouchesTheTableOnly
  intro i p s he hg hver h0 h1 hc
  have haid : isTmcAid p.d = false := Bool.eq_false_iff.mpr fun h => (isTmcAid_iff.mp h).elim h0 h1
  have hframe := afterGroup_frame i p s
  have hrow := (eq_decodeG3A_of_encodes he hg hver).trans (decodeG3A_other haid _ _)
  refine ⟨afterGroup i p s, exec_group_next he.2 hc, ?_⟩
  rw [hrow] at hframe ⊢
  exact hframe

/-! ### Staging and decoding (R223) -/

/-- What a repeated TMC system group decodes, by its variant (R224 to R226). -/
def tmcSysDecoder (p : GroupBlocks) : State → State :=
  if p.c.extractLsb' 14 2 = 0 then
    tmcSys0 (p.c.extractLsb' 6 6) (p.c.getLsbD 5) (p.c.getLsbD 4) (p.c.extractLsb' 0 4)
  else if p.c.extractLsb' 14 2 = 1 then
    tmcSys1 (p.c.extractLsb' 12 2) (p.c.extractLsb' 6 6) (p.c.extractLsb' 4 2) (p.c.extractLsb' 2 2) (p.c.extractLsb' 0 2)
  else id

/-- What a TMC system group leaves. -/
theorem afterGroup_tmcSys {i : Instr} {p : GroupBlocks} (he : Encodes i p) (hg : gidOf p = 3) (hver : verBOf p = false)
    (haid : isTmcAid p.d = true) (s : State) :
    afterGroup i p s = stageTmcSys (Group.ofBlocks p) (tmcSysDecoder p) (s.announced p) := by
  have hrow := eq_decodeG3A_of_encodes he hg hver
  unfold tmcSysDecoder
  by_cases h0 : p.c.extractLsb' 14 2 = 0
  · rw [decodeG3A, if_pos (isTmcAid_iff.mp haid), h0] at hrow
    rw [hrow, if_pos h0]
    rfl
  by_cases h1 : p.c.extractLsb' 14 2 = 1
  · rw [decodeG3A, if_pos (isTmcAid_iff.mp haid), h1] at hrow
    rw [hrow, if_neg h0, if_pos h1]
    rfl
  · have h2 : 2#2 ≤ p.c.extractLsb' 14 2 := by bv_omega
    rw [hrow, decodeG3A_high haid h2, if_neg h0, if_neg h1]
    rfl

theorem tmcSysDecoder_untouched (p : GroupBlocks) (s : State) :
    Untouched [.tmcSys, .validFields, .updMask] s (tmcSysDecoder p s) := by
  unfold tmcSysDecoder
  split
  · exact setTmcSys_untouched _ s
  split
  · exact setTmcSys_untouched _ s
  · exact .refl _ s

/-- The group is staged, whether or not it is decoded. -/
theorem stageTmcSys_prevTmcSysGroup (g : Group) (p : GroupBlocks) (s : State) :
    (stageTmcSys g (tmcSysDecoder p) s).prevTmcSysGroup = g := by
  by_cases hit : g = s.prevTmcSysGroup
  · rw [stageTmcSys_hit hit]
    exact (tmcSysDecoder_untouched p { s with prevTmcSysGroup := g } .prevTmcSysGroup (by decide)).symm
  · rw [stageTmcSys_miss hit]

/-- Where the group is another than before, or its variant is not decoded, it is staged only. -/
theorem stageTmcSys_silent {g : Group} {f : State → State} {s : State} (h : g ≠ s.prevTmcSysGroup ∨ f = id) :
    stageTmcSys g f s = { s with prevTmcSysGroup := g } := by
  rcases h with h | rfl
  · exact stageTmcSys_miss h f
  · exact ite_self _

theorem setTmcSys_publishes (v : TmcSys) {s : State} (h : s.raised .tmcSys = false) :
    Published .tmcSys (v != s.tmcSys) (setTmcSys v s) := by
  rw [setTmcSys_eq]
  exact .of_flags rfl rfl bne_iff_ne.symm h

/-- A repeated group sets the parameters, and its bit says whether they changed. -/
theorem stageTmcSys_publishes {g : Group} {s : State} (hit : g = s.prevTmcSysGroup) (h : s.raised .tmcSys = false)
    (w : TmcSys → TmcSys) :
    (stageTmcSys g (fun s => setTmcSys (w s.tmcSys) s) s).tmcSys = w s.tmcSys
      ∧ Published .tmcSys (w s.tmcSys != s.tmcSys) (stageTmcSys g (fun s => setTmcSys (w s.tmcSys) s) s) := by
  refine ⟨(stageTmcSys_registers w g s).2.trans (if_pos hit), ?_⟩
  rw [stageTmcSys_hit hit]
  exact setTmcSys_publishes _ h

/-- The parameters of variant 1, field by field: the timing fields in enhanced mode only (R225). -/
theorem TmcSys.setVariant1_eq (gap : BitVec 2) (sid : BitVec 6) (tA tW tD : BitVec 2) (v : TmcSys) :
    v.setVariant1 gap sid tA tW tD = { v with
      gap := gap
      sid := sid
      tA := if v.enhancedMode then tA else v.tA
      tW := if v.enhancedMode then tW else v.tW
      tD := if v.enhancedMode then tD else v.tD } := by
  unfold TmcSys.setVariant1
  split <;> rfl

/-- Settles O36: a TMC system group goes through its staging register after the ODA row, which touches neither that register nor the
parameters. -/
theorem tmcSystemGroupIsDecodedTwice : Obligations.TmcSystemGroupIsDecodedTwice := by
  unfold Obligations.TmcSystemGroupIsDecodedTwice
  intro i p s he hg hver haid hc hit variant sys0 sys1
  have hafter := afterGroup_tmcSys he hg hver (isTmcAid_iff.mpr haid) s
  have hbefore := announced_frame p s
  have hquiet : Quiet .tmcSys s (s.announced p) := hbefore.quiet (by decide)
  have hprev : s.prevTmcSysGroup = (s.announced p).prevTmcSysGroup := hbefore.1 .prevTmcSysGroup (by decide)
  have hsys : s.tmcSys = (s.announced p).tmcSys := hbefore.1 .tmcSys (by decide)
  refine ⟨afterGroup i p s, exec_group_next he.2 hc, ?_, ?_, ?_, ?_,
    hbefore.append (announced_confined he.2 hg hver s) (by decide) (by decide)⟩
  · rw [hafter, stageTmcSys_prevTmcSysGroup]
  · intro hhit hvar
    have hsys0 : sys0 = s.tmcSys.setVariant0 _ _ _ _ := rfl
    rw [hafter, tmcSysDecoder, if_pos hvar, tmcSys0_eq, hsys0, hsys]
    exact stageTmcSys_publishes (hhit.symm.trans hprev) hquiet.2 _
  · intro hhit hvar
    have hvar0 : variant ≠ 0 := by rw [hvar]; decide
    have hsys1 : sys1 = s.tmcSys.setVariant1 _ _ _ _ _ := (TmcSys.setVariant1_eq _ _ _ _ _ _).symm
    rw [hafter, tmcSysDecoder, if_neg hvar0, if_pos hvar, tmcSys1_eq, hsys1, hsys]
    exact stageTmcSys_publishes (hhit.symm.trans hprev) hquiet.2 _
  · intro hnone
    have hsilent : Group.ofBlocks p ≠ (s.announced p).prevTmcSysGroup ∨ tmcSysDecoder p = id := by
      refine hnone.imp (fun hmiss h => hmiss (hprev.trans h.symm)) fun hvar => ?_
      rw [tmcSysDecoder, if_neg hvar.1, if_neg hvar.2]
    rw [hafter, stageTmcSys_silent hsilent]
    exact ⟨hsys.symm, hquiet⟩

end Sys2Proof.Machine
end

section
/-! The civil time of a clock-time group (R243 to R247) as numbers: the decimal form of the date over rationals is the integer form,
the month and the day are in range on every day, and the time of day and the day carry are the quotient and the remainder of one
division. -/

namespace Sys2Proof.Machine

/-! ### The date in its decimal form (R245) -/

/-- A rational brought to one fraction of integers has the integer quotient as its floor. -/
theorem floor_eq_ediv {q : Rat} {a : Int} {n : Nat} (h : q = (a : Rat) / (n : Rat)) : ⌊q⌋ = a / (n : Int) := by
  rw [h, Rat.floor_intCast_div_natCast]

theorem decimalY_eq_mjdY (m : Int) : decimalY m = mjdY m :=
  floor_eq_ediv (n := 36525) (by push_cast; ring)

theorem decimalYp_eq_mjdYp (m : Int) : decimalYp m = mjdYp m := by
  rw [decimalYp, decimalY_eq_mjdY]
  exact floor_eq_ediv (n := 4) (by push_cast; ring)

theorem decimalM_eq_mjdM (m : Int) : decimalM m = mjdM m := by
  rw [decimalM, decimalYp_eq_mjdYp]
  exact floor_eq_ediv (n := 306001) (by push_cast; ring)

theorem decimalK_eq_mjdK (m : Int) : decimalK m = mjdK m := by rw [decimalK, decimalM_eq_mjdM, mjdK]

theorem decimalD_eq_mjdDay (m : Int) : decimalD m = mjdDay m := by
  have hfloor : ⌊(mjdM m : Rat) * (306001 / 10000)⌋ = 306001 * mjdM m / 10000 := floor_eq_ediv (n := 10000) (by push_cast; ring)
  rw [decimalD, decimalYp_eq_mjdYp, decimalM_eq_mjdM, hfloor, mjdDay]

/-! ### The ranges of the date (R245) -/

/-- Less the days of the years before it, a day is one of the year from 1 March 1900 (15079) on. -/
theorem sub_mjdYp_mem_Icc (m : Int) : m - mjdYp m ∈ Set.Icc 15079 15444 := by
  unfold mjdYp mjdY
  constructor <;> omega

theorem mjdM_mem_Icc (m : Int) : mjdM m ∈ Set.Icc 4 15 := by
  obtain ⟨hlow, hhigh⟩ := sub_mjdYp_mem_Icc m
  unfold mjdM
  constructor <;> omega

/-- The months 14 and 15 of the conversion are the first two of the next year, and the others begin with March. -/
theorem mjdMonth_mem_Icc (m : Int) : mjdMonth m ∈ Set.Icc 1 12 := by
  obtain ⟨hlow, hhigh⟩ := mjdM_mem_Icc m
  unfold mjdMonth mjdK
  split <;> constructor <;> omega

/-- The day is what the month's division leaves, and that is less than a month. -/
theorem mjdDay_mem_Icc (m : Int) : mjdDay m ∈ Set.Icc 1 31 := by
  unfold mjdDay mjdM
  constructor <;> omega

/-! ### The time of day (R243, R244) -/

theorem offsetMinutes_mem_Icc (sign : Bool) (mag : BitVec 5) : offsetMinutes sign mag ∈ Set.Icc (-930) 930 := by
  have hmag : mag.toNat < 32 := mag.isLt
  unfold offsetMinutes
  split <;> constructor <;> omega

section
variable (mjd : BitVec 17) (hour : BitVec 5) (minute : BitVec 6) (sign : Bool) (mag : BitVec 5)

/-- The day carry takes out of the local minutes what the time of day leaves. -/
theorem civilTime_minutes :
    1440 * ((mjd.toNat : Int) + localMinutes hour minute (offsetMinutes sign mag) / 1440)
      + 60 * (civilTime mjd hour minute sign mag).hour + (civilTime mjd hour minute sign mag).minute
      = 1440 * mjd.toNat + 60 * hour.toNat + minute.toNat + offsetMinutes sign mag := by
  dsimp only [civilTime, localMinutes]
  omega

theorem civilTime_hour_mem_Icc : (civilTime mjd hour minute sign mag).hour ∈ Set.Icc 0 23 := by
  dsimp only [civilTime]
  constructor <;> omega

theorem civilTime_minute_mem_Icc : (civilTime mjd hour minute sign mag).minute ∈ Set.Icc 0 59 := by
  dsimp only [civilTime]
  constructor <;> omega

theorem civilTime_gmtoff_mem_Icc : (civilTime mjd hour minute sign mag).gmtoff ∈ Set.Icc (-55800) 55800 := by
  obtain ⟨hlow, hhigh⟩ := offsetMinutes_mem_Icc sign mag
  dsimp only [civilTime]
  constructor <;> omega

end

end Sys2Proof.Machine
end

section
/-! A 4A group (R240): the common extractors, then the MJD buffer, whose hit writes the time. -/

namespace Sys2Proof.Machine

/-- The MJD of a 4A group (R241). -/
def clockMjd (p : GroupBlocks) : BitVec 17 := p.b.extractLsb' 0 2 ++ p.c.extractLsb' 1 15

/-- The civil time of a 4A group (R241, R243 to R247). -/
def clockTime (p : GroupBlocks) : CivilTime :=
  civilTime (clockMjd p) (p.c.extractLsb' 0 1 ++ p.d.extractLsb' 12 4) (p.d.extractLsb' 6 6) (p.d.getLsbD 5) (p.d.extractLsb' 0 5)

section
variable {i : Instr} {p : GroupBlocks} (he : encodeGroup i = some p) (hg : gidOf p = 4) (hver : verBOf p = false) (s : State)
include he hg hver

/-- What the 4A row leaves. -/
theorem afterGroup_type4A : afterGroup i p s = observeMjd (clockMjd p) (clockTime p) (s.extracted p) := by
  cases i with
  | g4a =>
    cases he
    simp only [clockTime, clockMjd, blockB_low _ _ _ _ _ 0 2 (by decide), lowG4_mjd, blockC4_mjd, blockC4_hour, blockD4_hour,
      blockD4_minute, blockD4_sign, blockD4_mag, mjd_join, hour_join]
    rfl
  | g4b =>
    cases he
    rw [verBOf, blockB_ver] at hver
    cases hver
  | _ => cases he <;> simp [gidOf, blockB_gid] at hg

theorem afterGroup_newMjd : (afterGroup i p s).newMjd = clockMjd p := by
  rw [afterGroup_type4A he hg hver, observeMjd_eq]

theorem afterGroup_type4A_frame : GroupFrame [.newMjd, .time] [.time] s (afterGroup i p s) := by
  rw [afterGroup_type4A he hg hver]
  exact (extracted_frame p s).append ⟨observeMjd_untouched _ _ _, observeMjd_bits _ _ _⟩ (by decide) (by decide)

/-- Another MJD than the staged one: the time stands, and its bits with it (R242). -/
theorem afterGroup_keeps_time (hmiss : clockMjd p ≠ s.newMjd) :
    (afterGroup i p s).time = s.time ∧ Quiet .time s (afterGroup i p s) := by
  have hbefore := extracted_frame p s
  have hstaged : s.newMjd = (s.extracted p).newMjd := hbefore.1 .newMjd (by decide)
  have htime : s.time = (s.extracted p).time := hbefore.1 .time (by decide)
  rw [hstaged] at hmiss
  rw [afterGroup_type4A he hg hver, htime]
  unfold observeMjd
  rw [if_neg hmiss]
  exact ⟨rfl, hbefore.quiet (by decide)⟩

/-- The staged MJD again: the group's civil time is published (R242, R247). -/
theorem afterGroup_publishes_time (hhit : s.newMjd = clockMjd p) :
    (afterGroup i p s).time = clockTime p ∧ Published .time (clockTime p != s.time) (afterGroup i p s) := by
  have hbefore := extracted_frame p s
  have hstaged : s.newMjd = (s.extracted p).newMjd := hbefore.1 .newMjd (by decide)
  have htime : s.time = (s.extracted p).time := hbefore.1 .time (by decide)
  have hhit' : clockMjd p = (s.extracted p).newMjd := hhit.symm.trans hstaged
  rw [afterGroup_type4A he hg hver, observeMjd_eq, htime]
  refine ⟨if_pos hhit', .of_flags (if_pos hhit') rfl ?_ (hbefore.quiet (by decide)).2⟩
  rw [bne_iff_ne]
  exact and_iff_right hhit'

end

/-! ### The three statements -/

/-- Settles O38: the row is the extractors, which touch neither the MJD buffer nor the time, and then the buffer. -/
theorem clockTimeNeedsTheSameMjdTwice : Obligations.ClockTimeNeedsTheSameMjdTwice := by
  unfold Obligations.ClockTimeNeedsTheSameMjdTwice
  intro i p s he hg hver hc mjd
  refine ⟨afterGroup i p s, exec_group_next he hc, afterGroup_newMjd he hg hver s, afterGroup_keeps_time he hg hver s, fun hhit => ?_,
    afterGroup_type4A_frame he hg hver s⟩
  obtain ⟨htime, hpublished⟩ := afterGroup_publishes_time he hg hver s hhit.symm
  rw [htime]
  exact hpublished

/-- Settles O39: a hit writes the civil time of the group, whose date is the decimal form's and whose day carry is the floor of the
local minutes over a day. -/
theorem clockTimeIsLocalTimeAndDate : Obligations.ClockTimeIsLocalTimeAndDate := by
  unfold Obligations.ClockTimeIsLocalTimeAndDate
  intro i p s he hg hver hc hhit mjd hour minute mag off m
  obtain ⟨htime, hpublished⟩ := afterGroup_publishes_time he hg hver s hhit
  have hcarry : m = mjd + (60 * hour + minute + off) / 1440 := congrArg (mjd + ·) (floor_eq_ediv (n := 1440) rfl)
  refine ⟨afterGroup i p s, exec_group_next he hc, ?_⟩
  rw [htime, decimalY_eq_mjdY, decimalK_eq_mjdK, decimalM_eq_mjdM, decimalD_eq_mjdDay, hcarry]
  obtain ⟨hhour0, hhour23⟩ : (clockTime p).hour ∈ Set.Icc 0 23 := civilTime_hour_mem_Icc ..
  obtain ⟨hminute0, hminute59⟩ : (clockTime p).minute ∈ Set.Icc 0 59 := civilTime_minute_mem_Icc ..
  refine ⟨civilTime_minutes .., hhour0, hhour23, hminute0, hminute59, rfl, rfl, rfl, rfl, rfl, hpublished⟩

/-- Settles O40: on a hit the record is the civil time of the group, and the conversion's month and day are in range on every day. -/
theorem clockTimeStaysInRange : Obligations.ClockTimeStaysInRange := by
  unfold Obligations.ClockTimeStaysInRange
  intro i p s he hg hver hc hhit
  obtain ⟨htime, -⟩ := afterGroup_publishes_time he hg hver s hhit
  obtain ⟨hmonth1, hmonth12⟩ : (clockTime p).month ∈ Set.Icc 1 12 := mjdMonth_mem_Icc _
  obtain ⟨hday1, hday31⟩ : (clockTime p).day ∈ Set.Icc 1 31 := mjdDay_mem_Icc _
  obtain ⟨hlow, hhigh⟩ : (clockTime p).gmtoff ∈ Set.Icc (-55800) 55800 := civilTime_gmtoff_mem_Icc ..
  refine ⟨afterGroup i p s, exec_group_next he hc, ?_⟩
  rw [htime]
  exact ⟨hmonth1, hmonth12, hday1, hday31, hlow, hhigh⟩

end Sys2Proof.Machine
end

section
/-! The two round trips between an instruction and its encoding (R104, R105): a word's parts, each group type's fields, and every
level of the table. -/

namespace Sys2Proof

theorem GroupBlocks.ofWord_word (p : GroupBlocks) : GroupBlocks.ofWord p.word = p := by
  obtain ⟨a, b, c, d⟩ := p
  simp (disch := decide) only [GroupBlocks.ofWord, GroupBlocks.word, BitVec.extractLsb'_append_eq_of_le,
    BitVec.extractLsb'_append_eq_of_add_le, Nat.reduceSub, BitVec.extractLsb'_eq_self]

theorem RawBlock.ofWord_word (r : RawBlock) : RawBlock.ofWord r.word = r := by
  obtain ⟨data, block⟩ := r
  rw [RawBlock.ofWord, RawBlock.word, BitVec.extractLsb'_append_eq_left, BitVec.extractLsb'_append_eq_right]

theorem Version.eq_a_or_eq_b (v : Version) : v = .a ∨ v = .b := by
  cases v
  · exact .inl rfl
  · exact .inr rfl

end Sys2Proof

namespace Sys2Proof.Machine

/-! ### From an instruction to its encoding and back -/

theorem decodeOp_of_encodes {i : Instr} {op : HostOp} (h : encodeOp i = some op) : decodeOp op = i := by
  cases i with
  | create | destroy | reset | add | getGroup | read | lookupIndex => cases h; rfl
  | _ => cases h

/-- Every instruction has an encoding on the level of its row. -/
theorem encoding_isSome (i : Instr) : ((encodeGroup i).isSome || (encodeBlock i).isSome || (encodeOp i).isSome) = true := by
  cases i <;> rfl

/-- Settles O12: on each level the decoder reads back the operands the encoder composed. -/
theorem decodeOfEncodeIsTheInstruction : Obligations.DecodeOfEncodeIsTheInstruction := by
  unfold Obligations.DecodeOfEncodeIsTheInstruction
  intro i hw
  exact ⟨fun p hp => ⟨decodeGroup_of_encodes ⟨hw, hp⟩, GroupBlocks.ofWord_word p⟩,
    fun r hr => ⟨decodeBlock_of_encodes hr, RawBlock.ofWord_word r⟩, fun op => decodeOp_of_encodes, encoding_isSome i⟩

/-! ### From the four blocks of a group to its row and back -/

/-- Block B may be written as its fields (R85). -/
theorem encodes_of_blockB {i : Instr} {p : GroupBlocks} (gid : BitVec 4) {ver : Version}
    (hg : (p.b.extractLsb' 12 4).toNat = gid.toNat) (hver : Version.ofBit (p.b.getLsbD 11) = ver)
    (h : Encodes i ⟨p.a, blockB gid ver (p.b.getLsbD 10) (p.b.extractLsb' 5 5) (p.b.extractLsb' 0 5), p.c, p.d⟩) :
    Encodes i p := by
  rw [← BitVec.eq_of_toNat_eq hg, ← hver, blockB_fields] at h
  exact h

section
variable (p : GroupBlocks) (tp : Bool) (pty : BitVec 5)

theorem decodeG1A_encodes : Encodes (decodeG1A p tp pty) ⟨p.a, blockB 1 .a tp pty (p.b.extractLsb' 0 5), p.c, p.d⟩ := by
  have hfields (v : BitVec 3) (hv : (p.c.extractLsb' 12 3).toNat = v.toNat) :
      blockC1 (p.c.getLsbD 15) v (p.c.extractLsb' 0 12) = p.c := by
    rw [← BitVec.eq_of_toNat_eq hv, blockC1_fields]
  have hbytes (v : BitVec 3) (hv : (p.c.extractLsb' 12 3).toNat = v.toNat) :
      blockC1 (p.c.getLsbD 15) v (p.c.extractLsb' 8 4 ++ p.c.extractLsb' 0 8) = p.c := by
    rw [← BitVec.eq_of_toNat_eq hv, blockC1_byte_fields]
  unfold decodeG1A
  dsimp only
  split
  case h_1 hv => exact ⟨rfl, by rw [encodeGroup, hbytes 0 hv]⟩
  case h_2 hv => exact ⟨rfl, by rw [encodeGroup, hfields 1 hv]⟩
  case h_3 hv => exact ⟨rfl, by rw [encodeGroup, hfields 2 hv]⟩
  case h_4 hv => exact ⟨rfl, by rw [encodeGroup, hbytes 3 hv]⟩
  case h_5 h0 h1 h2 h3 =>
    have h4 : 4 ≤ (p.c.extractLsb' 12 3).toNat := by grind
    exact ⟨decide_eq_true h4, by rw [encodeGroup, blockC1_fields]⟩

theorem decodeG3A_encodes : Encodes (decodeG3A p tp pty) ⟨p.a, blockB 3 .a tp pty (p.b.extractLsb' 0 5), p.c, p.d⟩ := by
  unfold decodeG3A
  dsimp only
  split
  case isTrue haid =>
    rw [← isTmcAid_iff] at haid
    split
    case h_1 hv => exact ⟨haid, by rw [encodeGroup, lowG3_fields, blockC3v0_fields (BitVec.eq_of_toNat_eq hv)]⟩
    case h_2 hv => exact ⟨haid, by rw [encodeGroup, lowG3_fields, blockC3v1_fields (BitVec.eq_of_toNat_eq hv)]⟩
    case h_3 h0 h1 =>
      have h2 : 2 ≤ (p.c.extractLsb' 14 2).toNat := by grind
      exact ⟨Bool.and_eq_true_iff.mpr ⟨decide_eq_true h2, haid⟩, by rw [encodeGroup, lowG3_fields, blockC3x_fields]⟩
  case isFalse haid =>
    rw [← isTmcAid_iff, Bool.not_eq_true] at haid
    exact ⟨Bool.not_eq_eq_eq_not.mpr haid, by rw [encodeGroup, lowG3_fields]⟩

theorem decodeG4A_encodes : Encodes (decodeG4A p tp pty) ⟨p.a, blockB 4 .a tp pty (p.b.extractLsb' 0 5), p.c, p.d⟩ :=
  ⟨rfl, by rw [decodeG4A, encodeGroup, lowG4_fields, blockC4_fields, blockD4_fields]⟩

theorem decodeG8A_encodes : Encodes (decodeG8A p tp pty) ⟨p.a, blockB 8 .a tp pty (p.b.extractLsb' 0 5), p.c, p.d⟩ := by
  have hlow := lowG8_fields p.b
  have hprimary := blockC8_fields p.c
  unfold decodeG8A
  dsimp only
  split
  case isTrue hti =>
    rw [hti] at hlow
    exact ⟨rfl, by rw [encodeGroup, hlow]⟩
  case isFalse hti =>
  rw [Bool.not_eq_true] at hti
  rw [hti] at hlow
  split
  case isTrue hsg =>
    rw [hsg] at hlow
    exact ⟨rfl, by rw [encodeGroup, hlow, hprimary]⟩
  case isFalse hsg =>
  rw [Bool.not_eq_true] at hsg
  rw [hsg] at hlow
  split
  case isTrue hfgi =>
    rw [hfgi] at hprimary
    exact ⟨rfl, by rw [encodeGroup, hlow, hprimary]⟩
  case isFalse hfgi =>
  have hwindow := blockC8w_fields (Bool.eq_false_iff.mpr hfgi) p.d
  split
  case isTrue hsgi =>
    rw [hsgi] at hwindow
    exact ⟨rfl, by rw [encodeGroup, hlow, hwindow, window_low]⟩
  case isFalse hsgi =>
    rw [Bool.eq_false_iff.mpr hsgi] at hwindow
    exact ⟨rfl, by rw [encodeGroup, hlow, hwindow, window_low]⟩

end

theorem decodeGroup_encodes (p : GroupBlocks) : Encodes (decodeGroup p) p := by
  unfold decodeGroup
  dsimp only
  split
  case h_1 hg hv => exact encodes_of_blockB 0 hg hv ⟨rfl, by rw [encodeGroup, lowG0_fields, bytePair_fields, bytePair_fields]⟩
  case h_2 hg hv => exact encodes_of_blockB 0 hg hv ⟨rfl, by rw [encodeGroup, lowG0_fields, bytePair_fields]⟩
  case h_3 hg hv => exact encodes_of_blockB 1 hg hv (decodeG1A_encodes p _ _)
  case h_4 hg hv => exact encodes_of_blockB 1 hg hv ⟨rfl, rfl⟩
  case h_5 hg hv => exact encodes_of_blockB 2 hg hv ⟨rfl, by rw [encodeGroup, lowG2_fields, bytePair_fields, bytePair_fields]⟩
  case h_6 hg hv => exact encodes_of_blockB 2 hg hv ⟨rfl, by rw [encodeGroup, lowG2_fields, bytePair_fields]⟩
  case h_7 hg hv => exact encodes_of_blockB 3 hg hv (decodeG3A_encodes p _ _)
  case h_8 hg hv => exact encodes_of_blockB 3 hg hv ⟨rfl, rfl⟩
  case h_9 hg hv => exact encodes_of_blockB 4 hg hv (decodeG4A_encodes p _ _)
  case h_10 hg hv => exact encodes_of_blockB 4 hg hv ⟨rfl, rfl⟩
  case h_11 hg => exact encodes_of_blockB 5 hg rfl ⟨rfl, rfl⟩
  case h_12 hg => exact encodes_of_blockB 6 hg rfl ⟨rfl, rfl⟩
  case h_13 hg => exact encodes_of_blockB 7 hg rfl ⟨rfl, rfl⟩
  case h_14 hg hv => exact encodes_of_blockB 8 hg hv (decodeG8A_encodes p _ _)
  case h_15 hg hv => exact encodes_of_blockB 8 hg hv ⟨rfl, rfl⟩
  case h_16 hg => exact encodes_of_blockB 9 hg rfl ⟨rfl, rfl⟩
  case h_17 hg hv => exact encodes_of_blockB 10 hg hv ⟨rfl, by rw [encodeGroup, lowG10_fields, bytePair_fields, bytePair_fields]⟩
  case h_18 hg hv => exact encodes_of_blockB 10 hg hv ⟨rfl, rfl⟩
  case h_19 hg => exact encodes_of_blockB 11 hg rfl ⟨rfl, rfl⟩
  case h_20 hg => exact encodes_of_blockB 12 hg rfl ⟨rfl, rfl⟩
  case h_21 hg => exact encodes_of_blockB 13 hg rfl ⟨rfl, rfl⟩
  case h_22 hg => exact encodes_of_blockB 14 hg rfl ⟨rfl, rfl⟩
  case h_23 =>
    have hg : (p.b.extractLsb' 12 4).toNat = 15 := by
      have hlt := (p.b.extractLsb' 12 4).isLt
      have hver := (Version.ofBit (p.b.getLsbD 11)).eq_a_or_eq_b
      grind
    exact encodes_of_blockB 15 hg rfl ⟨rfl, rfl⟩

theorem wellFormed_of_isBlock {i : Instr} (h : i.isBlock = true) : i.wellFormed = true := by
  cases i with
  | g1aV4_7 | g3aTmcSys0 | g3aTmcSys1 | g3aTmcSysX | g3a => cases h
  | _ => rfl

theorem decodeOp_encodes (op : HostOp) : (decodeOp op).wellFormed = true ∧ encodeOp (decodeOp op) = some op := by
  cases op <;> exact ⟨rfl, rfl⟩

/-- Settles O13: on each level the fields the decoder reads are all the bits there are, and a composed block is its fields. -/
theorem encodeOfDecodeIsTheWord : Obligations.EncodeOfDecodeIsTheWord := by
  unfold Obligations.EncodeOfDecodeIsTheWord
  exact ⟨decodeGroup_encodes, fun r => ⟨wellFormed_of_isBlock (decodeBlock_isBlock r), encodeBlock_decodeBlock r⟩,
    decodeOp_encodes⟩

end Sys2Proof.Machine
end

section
/-! The host operations: what CREATE leaves, what an observer returns, the row ADD runs, and the guard by which a row completes where
there is an instance and is refused where there is none (R310 to R318, R333, R339). -/

namespace Sys2Proof.Machine

/-! ### The reset state and the observers -/

/-- Settles O2: CREATE answers a cleared state, which `State.reset` is for the bit 0 and an empty input. -/
theorem resetStateIsCreateOfRds : Obligations.ResetStateIsCreateOfRds := by
  unfold Obligations.ResetStateIsCreateOfRds
  refine ⟨fun s hs => ?_, cleared_isCleared false Statistics.zero []⟩
  rw [exec_create, hs, State.reset]

/-- Settles O5: an observer returns the value it is guarded to answer, which for a read is the register's. -/
theorem readsReturnTheRegister : Obligations.ReadsReturnTheRegister := by
  unfold Obligations.ReadsReturnTheRegister
  intro s hc
  constructor
  · exact ⟨s.answer (.group s.rdsGroup), by rw [exec_getGroup, whenCreated_of_created hc], rfl⟩
  · intro r
    refine ⟨s.answer (s.readReg r), by rw [exec_read, whenCreated_of_created hc], ?_⟩
    cases r <;> rfl

theorem countryInRange_of_table {ecc : Byte} (hlow : 0xE0 ≤ ecc.toNat) (hhigh : ecc.toNat ≤ 0xE4) : countryInRange ecc = true := by
  rw [countryInRange, decide_eq_true hlow, decide_eq_true hhigh]
  rfl

/-- Settles O6: the answer is the record of indices, whose country flag is true in the table's range whatever the free value is. -/
theorem lookupIndicesFromPublicRegisters : Obligations.LookupIndicesFromPublicRegisters := by
  unfold Obligations.LookupIndicesFromPublicRegisters
  intro s hc
  have hexec : exec .lookupIndex s = .next (s.answer (.indices s.lookupIndices)) := by
    rw [exec_lookupIndex, whenCreated_of_created hc]
  exact ⟨_, s.lookupIndices, hexec, rfl, State.answer_untouched _ s, rfl, rfl, rfl, rfl, rfl, rfl, rfl,
    countryInRange_of_table, rfl, rfl⟩

/-! ### The row ADD runs -/

/-- Settles O10: the row is the one the argument decodes to, and decoding drops no bit of the argument. -/
theorem addRunsTheBlockRow : Obligations.AddRunsTheBlockRow := by
  unfold Obligations.AddRunsTheBlockRow
  exact fun data block s => ⟨exec_add data block s, decodeBlock_isBlock _, encodeBlock_decodeBlock _⟩

/-! ### The guard of every row but CREATE's (R312, R364) -/

theorem exec_group_guarded {i : Instr} (hi : i.isGroup = true) (s : State) : ∃ effect, exec i s = whenCreated s effect := by
  obtain ⟨p, hp⟩ := encodeGroup_of_isGroup hi
  exact ⟨_, exec_group hp s⟩

/-- A block D that completes a group is guarded by the group's row, whose instance is the one it is given to. -/
theorem exec_block_guarded {i : Instr} (hi : i.isBlock = true) (s : State) : ∃ effect, exec i s = whenCreated s effect := by
  cases i with
  | blkErr => exact ⟨_, exec_blkErr ..⟩
  | blkA => exact ⟨_, exec_blkA ..⟩
  | blkB => exact ⟨_, exec_blkB ..⟩
  | blkC => exact ⟨_, exec_blkC ..⟩
  | blkCp => exact ⟨_, exec_blkCp ..⟩
  | blkX5 => exact ⟨_, exec_blkX5 ..⟩
  | blkX6 => exact ⟨_, exec_blkX6 ..⟩
  | blkX7 => exact ⟨_, exec_blkX7 ..⟩
  | blkD c u d =>
    by_cases hd : s.decodeState = .cReceived
    · have hrow (t : State) := exec_group_guarded (decodeGroup_isGroup t.rawGroup) t
      obtain ⟨effect, heffect⟩ := hrow (storeD ⟨d, ctrlByte false c u 3⟩ (enterBlock false c s))
      rw [exec_blkD_complete c u d hd, heffect]
      exact ⟨fun _ => effect _, rfl⟩
    · exact ⟨_, exec_blkD_early c u d hd⟩
  | _ => cases hi

theorem exec_guarded {i : Instr} (hi : ∀ b, i ≠ .create b) (s : State) : ∃ effect, exec i s = whenCreated s effect := by
  cases i with
  | create b => exact absurd rfl (hi b)
  | destroy => exact ⟨_, exec_destroy s⟩
  | reset keep => exact ⟨_, exec_reset keep s⟩
  | getGroup => exact ⟨_, exec_getGroup s⟩
  | read r => exact ⟨_, exec_read r s⟩
  | lookupIndex => exact ⟨_, exec_lookupIndex s⟩
  | add data block => rw [exec_add]; exact exec_block_guarded (decodeBlock_isBlock _) s
  | blkErr | blkA | blkB | blkC | blkD | blkCp | blkX5 | blkX6 | blkX7 => exact exec_block_guarded rfl s
  | _ => exact exec_group_guarded rfl s

theorem destroyed_untouched (s : State) : Untouched [.created, .updMask, .readOut] s { s.clearOutputs with created := false } := by
  intro c hc
  cases c <;> first | exact absurd (by decide) hc | rfl

/-- Settles O7: DESTROY writes the flag and the ports, and without the flag every row but CREATE's is refused by its guard. -/
theorem destroyEndsTheInstance : Obligations.DestroyEndsTheInstance := by
  unfold Obligations.DestroyEndsTheInstance
  constructor
  · intro s hc
    exact ⟨{ s.clearOutputs with created := false }, by rw [exec_destroy, whenCreated_of_created hc], rfl, destroyed_untouched s⟩
  · intro i s hc hi
    obtain ⟨effect, heffect⟩ := exec_guarded hi s
    rw [heffect, whenCreated_of_destroyed hc]

/-- With an instance the guard lets every row through (R333, R339). -/
theorem exec_completes (i : Instr) {s : State} (hc : s.created = true) : ∃ t, exec i s = .next t := by
  by_cases hi : ∀ b, i ≠ .create b
  · obtain ⟨effect, heffect⟩ := exec_guarded hi s
    exact ⟨effect s, by rw [heffect, whenCreated_of_created hc]⟩
  · push Not at hi
    obtain ⟨b, rfl⟩ := hi
    exact ⟨_, exec_create b s⟩

/-- Settles O8: every row completes, and a step is the idle step or a row, run with the input taken from an instance that stays one. -/
theorem everyInstructionCompletes : Obligations.EveryInstructionCompletes := by
  unfold Obligations.EveryInstructionCompletes
  refine ⟨fun i s => exec_completes i, fun s hc => ?_⟩
  cases hp : s.pending with
  | nil => exact ⟨_, step_of_pending_nil hp⟩
  | cons op rest =>
    rw [step_of_pending_cons hp]
    exact exec_completes _ hc

end Sys2Proof.Machine
end

section
/-! An 8A group (R260): the common extractors, then the gate, and for a group it lets through the decoder that the group's bits select
(R262). -/

namespace Sys2Proof.Machine

/-! ### The decoder the bits select (R262) -/

/-- The primary fields of blocks C and D (R263). -/
def tmcPrimaryOf (dp : BitVec 3) (p : GroupBlocks) : TmcPending :=
  tmcPrimary dp (p.c.getLsbD 15) (p.c.getLsbD 14) (p.c.extractLsb' 11 3) (p.c.extractLsb' 0 11) p.d

/-- The window of a second or subsequent group (R96). -/
def tmcWindowOf (p : GroupBlocks) : BitVec 28 := p.c.extractLsb' 0 12 ++ p.d

/-- What a group decodes once the gate has let it through (R262 to R268). -/
def tmcDecoder (p : GroupBlocks) : State → State :=
  if p.b.getLsbD 3 then id
  else if p.b.getLsbD 4 then publishSingle (tmcPrimaryOf (p.b.extractLsb' 0 3) p)
  else if p.c.getLsbD 15 then startMulti (p.b.extractLsb' 0 3) (tmcPrimaryOf 0 p)
  else if p.c.getLsbD 14 then secondMulti (p.b.extractLsb' 0 3) (p.c.extractLsb' 12 2) (tmcWindowOf p)
  else nextMulti (p.b.extractLsb' 0 3) (p.c.extractLsb' 12 2) (tmcWindowOf p)

/-- What a decoder of the 8A forms may write. -/
def tmcTouched : List Component := [.newTmcMsg, .continuityId, .grpSeqId, .optionalTmc, .tmcMsg, .validFields, .updMask]

theorem tmcDecoder_untouched (p : GroupBlocks) (s : State) : Untouched tmcTouched s (tmcDecoder p s) := by
  unfold tmcDecoder
  split
  · exact .refl _ s
  split
  · exact (publishSingle_untouched _ s).mono (by decide)
  split
  · exact (startMulti_untouched _ _ s).mono (by decide)
  split
  · exact (secondMulti_untouched _ _ _ s).mono (by decide)
  · exact (nextMulti_untouched _ _ _ s).mono (by decide)

/-- The row the bits select and its decoder (R148, R262). -/
theorem rowDecoder_decodeG8A (p : GroupBlocks) (tp : Bool) (pty : BitVec 5) :
    rowDecoder (decodeG8A p tp pty) p = tmcGate (Group.ofBlocks p) (tmcDecoder p) := by
  unfold decodeG8A tmcDecoder tmcPrimaryOf
  dsimp only
  split
  · rfl
  split
  · rfl
  split
  case isTrue hfgi => rw [hfgi]; rfl
  split <;> rfl

/-! ### The gate (R261) -/

/-- An 8A group's instruction is the one its bits select; the operands of the five rows are free. -/
theorem eq_decodeG8A_of_encodeGroup {i : Instr} {p : GroupBlocks} (he : encodeGroup i = some p) (hg : gidOf p = 8)
    (hver : verBOf p = false) : i = decodeG8A p (p.b.getLsbD 10) (p.b.extractLsb' 5 5) := by
  have hw : i.wellFormed = true := by
    cases i with
    | g1aV4_7 | g3aTmcSys0 | g3aTmcSys1 | g3aTmcSysX | g3a => cases he; simp [gidOf, blockB_gid] at hg
    | _ => rfl
  unfold gidOf at hg
  unfold verBOf at hver
  rw [← decodeGroup_of_encodes ⟨hw, he⟩, decodeGroup, hg, hver]
  rfl

/-- The gate open: the common extractors have run, and the gate is disarmed. -/
def State.disarmed (p : GroupBlocks) (s : State) : State := { s.extracted p with prevTmcArmed := false }

/-- The gate shut: the common extractors have run, and the group is staged. -/
def State.armedWith (p : GroupBlocks) (s : State) : State :=
  { s.extracted p with prevTmcGroup := Group.ofBlocks p, prevTmcArmed := true }

theorem disarmed_frame (p : GroupBlocks) (s : State) : GroupFrame [.prevTmcArmed] [] s (s.disarmed p) := by
  have hwrite : Untouched [.prevTmcArmed] (s.extracted p) (s.disarmed p) := by
    intro c hc
    cases c <;> first | exact absurd (by decide) hc | rfl
  exact (extracted_frame p s).append ⟨hwrite, .of_eq (fs := []) rfl rfl⟩ (by decide) (by decide)

theorem disarmed_tmcMsg (p : GroupBlocks) (s : State) : (s.disarmed p).tmcMsg = s.tmcMsg := by rw [State.disarmed, State.extracted_eq]

theorem disarmed_newTmcMsg (p : GroupBlocks) (s : State) : (s.disarmed p).newTmcMsg = s.newTmcMsg := by
  rw [State.disarmed, State.extracted_eq]

theorem disarmed_continuityId (p : GroupBlocks) (s : State) : (s.disarmed p).continuityId = s.continuityId := by
  rw [State.disarmed, State.extracted_eq]

theorem disarmed_grpSeqId (p : GroupBlocks) (s : State) : (s.disarmed p).grpSeqId = s.grpSeqId := by
  rw [State.disarmed, State.extracted_eq]

theorem disarmed_optionalTmc (p : GroupBlocks) (s : State) : (s.disarmed p).optionalTmc = s.optionalTmc := by
  rw [State.disarmed, State.extracted_eq]

theorem armedWith_frame (p : GroupBlocks) (s : State) : GroupFrame [.prevTmcGroup, .prevTmcArmed] [] s (s.armedWith p) := by
  have hwrite : Untouched [.prevTmcGroup, .prevTmcArmed] (s.extracted p) (s.armedWith p) := by
    intro c hc
    cases c <;> first | exact absurd (by decide) hc | rfl
  exact (extracted_frame p s).append ⟨hwrite, .of_eq (fs := []) rfl rfl⟩ (by decide) (by decide)

/-- The extractors do not touch the gate. -/
theorem extracted_hits_iff (p : GroupBlocks) (s : State) :
    (s.extracted p).prevTmcArmed = true ∧ Group.ofBlocks p = (s.extracted p).prevTmcGroup
      ↔ s.prevTmcArmed = true ∧ s.prevTmcGroup = Group.ofBlocks p := by
  have harmed : s.prevTmcArmed = (s.extracted p).prevTmcArmed := (extracted_frame p s).1 .prevTmcArmed (by decide)
  have hgroup : s.prevTmcGroup = (s.extracted p).prevTmcGroup := (extracted_frame p s).1 .prevTmcGroup (by decide)
  rw [← harmed, ← hgroup, eq_comm (a := Group.ofBlocks p)]

/-- No decoder behind the gate writes its registers. -/
theorem tmcDecoder_gate (p : GroupBlocks) (s : State) :
    (tmcDecoder p (s.disarmed p)).prevTmcGroup = s.prevTmcGroup ∧ (tmcDecoder p (s.disarmed p)).prevTmcArmed = false := by
  have hdecoder := tmcDecoder_untouched p (s.disarmed p)
  have hgroup : s.prevTmcGroup = (s.disarmed p).prevTmcGroup := (disarmed_frame p s).1 .prevTmcGroup (by decide)
  have hgroup' : (s.disarmed p).prevTmcGroup = (tmcDecoder p (s.disarmed p)).prevTmcGroup := hdecoder .prevTmcGroup (by decide)
  have harmed : (s.disarmed p).prevTmcArmed = (tmcDecoder p (s.disarmed p)).prevTmcArmed := hdecoder .prevTmcArmed (by decide)
  exact ⟨(hgroup.trans hgroup').symm, harmed.symm⟩

section
variable {i : Instr} {p : GroupBlocks} (he : encodeGroup i = some p) (hg : gidOf p = 8) (hver : verBOf p = false) {s : State}
include he hg hver

theorem afterGroup_type8A : afterGroup i p s = tmcGate (Group.ofBlocks p) (tmcDecoder p) (s.extracted p) := by
  rw [eq_decodeG8A_of_encodeGroup he hg hver, afterGroup, rowDecoder_decodeG8A]
  rfl

theorem afterGroup_hit (harmed : s.prevTmcArmed = true) (hsame : s.prevTmcGroup = Group.ofBlocks p) :
    afterGroup i p s = tmcDecoder p (s.disarmed p) :=
  (afterGroup_type8A he hg hver).trans (tmcGate_hit ((extracted_hits_iff p s).mpr ⟨harmed, hsame⟩) _)

theorem afterGroup_miss (hmiss : ¬(s.prevTmcArmed = true ∧ s.prevTmcGroup = Group.ofBlocks p)) :
    afterGroup i p s = s.armedWith p :=
  (afterGroup_type8A he hg hver).trans (tmcGate_miss (fun h => hmiss ((extracted_hits_iff p s).mp h)) _)

theorem afterGroup_disarms (harmed : s.prevTmcArmed = true) (hsame : s.prevTmcGroup = Group.ofBlocks p) :
    (afterGroup i p s).prevTmcArmed = false := by
  rw [afterGroup_hit he hg hver harmed hsame]
  exact (tmcDecoder_gate p s).2

end

/-- Settles O41: the gate misses and stages, or hits and disarms; no decoder behind it writes its registers. -/
theorem tmcGateStagesOrDisarms : Obligations.TmcGateStagesOrDisarms := by
  unfold Obligations.TmcGateStagesOrDisarms
  intro i p s he hg hver hc hit
  refine ⟨afterGroup i p s, exec_group_next he hc, fun hmiss => ?_, fun hhit => ?_⟩
  · rw [afterGroup_miss he hg hver hmiss]
    exact ⟨rfl, rfl, armedWith_frame p s⟩
  · rw [afterGroup_hit he hg hver hhit.1 hhit.2]
    exact tmcDecoder_gate p s

/-! ### Tuning information and single groups (R264, R265) -/

/-- Settles O42: behind the gate there is nothing to decode. -/
theorem tuningInformationOnlyDisarms : Obligations.TuningInformationOnlyDisarms := by
  unfold Obligations.TuningInformationOnlyDisarms
  intro i p s he hg hver hc harmed hsame hti
  refine ⟨afterGroup i p s, exec_group_next he hc, ?_⟩
  rw [afterGroup_hit he hg hver harmed hsame, tmcDecoder, if_pos hti]
  exact ⟨rfl, disarmed_frame p s⟩

/-- One kind of TMC message is published and the other retracted, by the two flag words (C5). -/
theorem published_of_tmcFlags {f g : Field} (hfg : f ≠ g) {s t : State} {c : Prop} [Decidable c] {changed : Bool}
    (hv : t.validFields = (s.validFields ||| f.mask) &&& ~~~g.mask)
    (hm : t.updMask = if c then s.updMask ||| f.mask else s.updMask) (hc : c ↔ changed = true) (hf : s.raised f = false)
    (hg : s.raised g = false) : Published f changed t ∧ t.isValid g = false ∧ t.raised g = false := by
  have hpos : f.pos ≠ g.pos := fun h => hfg (Field.pos_inj h)
  have hvalid : t.isValid f = true := by rw [State.isValid, hv, isValid_published _ hfg]
  have hretracted : t.isValid g = false := by rw [State.isValid, hv, getLsbD_clear_mask, decide_eq_true rfl]; simp
  unfold State.raised at hf hg
  unfold Published State.raised
  rw [hm]
  by_cases h : c
  · rw [if_pos h, or_mask_other hpos, getLsbD_or_mask, decide_eq_true rfl, Bool.or_true, hc.mp h]
    exact ⟨⟨hvalid, rfl⟩, hretracted, hg⟩
  · rw [if_neg h, Bool.eq_false_iff.mpr fun hchanged => h (hc.mpr hchanged)]
    exact ⟨⟨hvalid, hf⟩, hretracted, hg⟩

theorem publishSingle_publishes (v : TmcPending) {s : State} (hsg : s.raised .tmcSg = false) (hmg : s.raised .tmcMg = false) :
    Published .tmcSg (⟨v, Additional.zero⟩ != s.tmcMsg) (publishSingle v s)
      ∧ (publishSingle v s).isValid .tmcMg = false ∧ (publishSingle v s).raised .tmcMg = false := by
  rw [publishSingle_eq]
  exact published_of_tmcFlags (by decide) rfl rfl bne_iff_ne.symm hsg hmg

/-- Settles O43: behind the gate the message is published over what the extractors left, which is the message as
before and bits it has not raised. -/
theorem singleGroupMessageIsPublished : Obligations.SingleGroupMessageIsPublished := by
  unfold Obligations.SingleGroupMessageIsPublished
  intro i p s he hg hver hc harmed hsame hti hsg msg
  have hbefore := disarmed_frame p s
  have hquietSg : Quiet .tmcSg s (s.disarmed p) := hbefore.quiet (by decide)
  have hquietMg : Quiet .tmcMg s (s.disarmed p) := hbefore.quiet (by decide)
  obtain ⟨hpublished, hretracted, hsilent⟩ := publishSingle_publishes (tmcPrimaryOf (p.b.extractLsb' 0 3) p) hquietSg.2 hquietMg.2
  have hafter : afterGroup i p s = publishSingle (tmcPrimaryOf (p.b.extractLsb' 0 3) p) (s.disarmed p) := by
    rw [afterGroup_hit he hg hver harmed hsame, tmcDecoder, hti, hsg]
    rfl
  refine ⟨afterGroup i p s, exec_group_next he hc, ?_⟩
  rw [hafter, ← disarmed_tmcMsg p s]
  refine ⟨by rw [publishSingle_eq]; rfl, by rw [publishSingle_eq]; rfl, hpublished, hretracted, hsilent, ?_⟩
  exact hbefore.append ⟨publishSingle_untouched _ _, publishSingle_bits _ _⟩ (by decide) (by decide)

/-! ### The groups of a multi-group message (R266 to R268) -/

/-- Settles O44: behind the gate the staging registers are written and nothing is published. -/
theorem firstGroupBeginsAMessage : Obligations.FirstGroupBeginsAMessage := by
  unfold Obligations.FirstGroupBeginsAMessage
  intro i p s he hg hver hc harmed hsame hti hsg hfgi
  have hafter : afterGroup i p s = startMulti (p.b.extractLsb' 0 3) (tmcPrimaryOf 0 p) (s.disarmed p) := by
    rw [afterGroup_hit he hg hver harmed hsame, tmcDecoder, hti, hsg, hfgi]
    rfl
  refine ⟨afterGroup i p s, exec_group_next he hc, ?_⟩
  rw [hafter]
  refine ⟨rfl, rfl, rfl, fun k => Vector.getElem_replicate _, rfl, ?_⟩
  exact (disarmed_frame p s).append ⟨startMulti_untouched _ _ _, startMulti_bits _ _ _⟩ (by decide) (by decide)

/-- A stored window is the group's bits in place (R96). -/
theorem windowWord_tmcWindowOf (p : GroupBlocks) : windowWord (tmcWindowOf p) = windowOf p := by
  apply BitVec.eq_of_getLsbD_eq
  intro k hk
  simp only [windowWord, tmcWindowOf, windowOf, BitVec.getLsbD_append, BitVec.getLsbD_or, BitVec.getLsbD_shiftLeft,
    BitVec.getLsbD_setWidth, BitVec.getLsbD_extractLsb']
  interval_cases k <;> simp

/-- The registers in which a window is stored, and the gate's. -/
def windowTouched : List Component := [.newTmcMsg, .grpSeqId, .optionalTmc, .prevTmcArmed]

theorem publishMulti_publishes {s : State} (hsg : s.raised .tmcSg = false) (hmg : s.raised .tmcMg = false) :
    Published .tmcMg (s.assembled != s.tmcMsg) (publishMulti s)
      ∧ (publishMulti s).isValid .tmcSg = false ∧ (publishMulti s).raised .tmcSg = false := by
  rw [publishMulti_eq]
  exact published_of_tmcFlags (by decide) rfl rfl bne_iff_ne.symm hmg hsg

section
variable {s u : State} (h : GroupFrame windowTouched [] s u) {gsi : BitVec 2}
include h

/-- The window announced last publishes the assembled message (R272). -/
theorem publishIfLast_last (hgsi : gsi = 0) :
    (publishIfLast gsi u).tmcMsg = (publishIfLast gsi u).assembled
      ∧ Published .tmcMg ((publishIfLast gsi u).tmcMsg != s.tmcMsg) (publishIfLast gsi u)
      ∧ (publishIfLast gsi u).isValid .tmcSg = false ∧ (publishIfLast gsi u).raised .tmcSg = false := by
  have hmsg : s.tmcMsg = u.tmcMsg := h.1 .tmcMsg (by decide)
  have hquietSg : Quiet .tmcSg s u := h.quiet (by decide)
  have hquietMg : Quiet .tmcMg s u := h.quiet (by decide)
  have hassembled : (publishMulti u).assembled = u.assembled := by rw [publishMulti_eq]; rfl
  have hpublic : (publishMulti u).tmcMsg = u.assembled := by rw [publishMulti_eq]
  rw [publishIfLast, if_pos hgsi, hmsg, hassembled, hpublic]
  exact ⟨rfl, publishMulti_publishes hquietSg.2 hquietMg.2⟩

/-- Any other window leaves the message and its bits. -/
theorem publishIfLast_more (hgsi : gsi ≠ 0) :
    (publishIfLast gsi u).tmcMsg = s.tmcMsg ∧ Quiet .tmcMg s (publishIfLast gsi u) ∧ Quiet .tmcSg s (publishIfLast gsi u) := by
  have hmsg : s.tmcMsg = u.tmcMsg := h.1 .tmcMsg (by decide)
  rw [publishIfLast, if_neg hgsi]
  exact ⟨hmsg.symm, h.quiet (by decide), h.quiet (by decide)⟩

end

section
variable (gsi : BitVec 2) (window : BitVec 28) {s u : State} (h : GroupFrame [.prevTmcArmed] [] s u)
include h

theorem storeSecond_frame : GroupFrame windowTouched [] s (u.storeSecond gsi window) := by
  have hwrite : Untouched [.newTmcMsg, .grpSeqId, .optionalTmc] u (u.storeSecond gsi window) := by
    intro c hc
    cases c <;> first | exact absurd (by decide) hc | rfl
  exact h.append ⟨hwrite, .of_eq (fs := []) rfl rfl⟩ (by decide) (by decide)

theorem storeNext_frame (hlt : u.newTmcMsg.length.toNat < 4) : GroupFrame windowTouched [] s (u.storeNext gsi window hlt) := by
  have hwrite : Untouched [.newTmcMsg, .grpSeqId, .optionalTmc] u (u.storeNext gsi window hlt) := by
    intro c hc
    cases c <;> first | exact absurd (by decide) hc | rfl
  exact h.append ⟨hwrite, .of_eq (fs := []) rfl rfl⟩ (by decide) (by decide)

end

/-- Publication leaves the staging registers (R272). -/
theorem publishIfLast_staging (gsi : BitVec 2) (s : State) :
    (publishIfLast gsi s).grpSeqId = s.grpSeqId ∧ (publishIfLast gsi s).newTmcMsg = s.newTmcMsg
      ∧ (publishIfLast gsi s).optionalTmc = s.optionalTmc := by
  have h := publishIfLast_untouched gsi s
  have hseq : s.grpSeqId = (publishIfLast gsi s).grpSeqId := h .grpSeqId (by decide)
  have hmsg : s.newTmcMsg = (publishIfLast gsi s).newTmcMsg := h .newTmcMsg (by decide)
  have hopt : s.optionalTmc = (publishIfLast gsi s).optionalTmc := h .optionalTmc (by decide)
  exact ⟨hseq.symm, hmsg.symm, hopt.symm⟩

/-- Settles O45: behind the gate a window with the continuity index is stored, and is the last one if its value is 0. -/
theorem secondGroupBringsWindowZero : Obligations.SecondGroupBringsWindowZero := by
  unfold Obligations.SecondGroupBringsWindowZero
  intro i p s he hg hver hc harmed hsame hti hsg hfgi hsgi gsi
  have hbefore := disarmed_frame p s
  have hafter : afterGroup i p s = secondMulti (p.b.extractLsb' 0 3) gsi (tmcWindowOf p) (s.disarmed p) := by
    rw [afterGroup_hit he hg hver harmed hsame, tmcDecoder, hti, hsg, hfgi, hsgi]
    rfl
  refine ⟨afterGroup i p s, exec_group_next he hc, afterGroup_disarms he hg hver harmed hsame, fun hindex => ?_,
    fun hindex => ?_, ?_⟩
  · rw [← disarmed_continuityId p s] at hindex
    have hstored := storeSecond_frame gsi (tmcWindowOf p) hbefore
    obtain ⟨hseq, hmsg, hopt⟩ := publishIfLast_staging gsi ((s.disarmed p).storeSecond gsi (tmcWindowOf p))
    rw [hafter, secondMulti_accept hindex]
    refine ⟨hseq, ?_, fun k => ?_, fun hlast => ?_, publishIfLast_more hstored⟩
    · rw [hmsg, ← disarmed_newTmcMsg p s]
      rfl
    · rw [hopt, ← disarmed_optionalTmc p s, ← windowWord_tmcWindowOf]
      exact getElem_set_fin _ 0 k _
    · obtain ⟨hpublic, hbits⟩ := publishIfLast_last hstored hlast
      refine ⟨?_, hbits⟩
      rw [hpublic, State.assembled, hmsg]
      rfl
  · rw [← disarmed_continuityId p s] at hindex
    rw [hafter, secondMulti_reject hindex]
    exact hbefore
  · rw [hafter]
    exact hbefore.append ⟨secondMulti_untouched _ _ _ _, secondMulti_bits _ _ _ _⟩ (by decide) (by decide)

/-- Settles O46: behind the gate a window in sequence is stored, and is the last one if its value is 0. -/
theorem subsequentGroupAppendsAWindow : Obligations.SubsequentGroupAppendsAWindow := by
  unfold Obligations.SubsequentGroupAppendsAWindow
  intro i p s he hg hver hc harmed hsame hti hsg hfgi hsgi gsi fits
  have hbefore := disarmed_frame p s
  have hafter : afterGroup i p s = nextMulti (p.b.extractLsb' 0 3) gsi (tmcWindowOf p) (s.disarmed p) := by
    rw [afterGroup_hit he hg hver harmed hsame, tmcDecoder, hti, hsg, hfgi, hsgi]
    rfl
  have hfits : fits ↔ (s.disarmed p).takesNext (p.b.extractLsb' 0 3) gsi := by
    unfold fits State.takesNext
    rw [disarmed_continuityId, disarmed_grpSeqId, disarmed_newTmcMsg]
    constructor
    · rintro ⟨hindex, hpos, hnext, hroom⟩
      exact ⟨hroom, hindex, hpos, by omega⟩
    · rintro ⟨hroom, hindex, hpos, hnext⟩
      exact ⟨hindex, hpos, by omega, hroom⟩
  refine ⟨afterGroup i p s, exec_group_next he hc, afterGroup_disarms he hg hver harmed hsame, fun htakes => ?_,
    fun hrejects => ?_, ?_⟩
  · rw [hfits] at htakes
    have hstored := storeNext_frame gsi (tmcWindowOf p) hbefore htakes.1
    obtain ⟨hseq, hmsg, hopt⟩ := publishIfLast_staging gsi ((s.disarmed p).storeNext gsi (tmcWindowOf p) htakes.1)
    rw [hafter, nextMulti_accept htakes]
    refine ⟨hseq, ?_, fun k => ?_, publishIfLast_last hstored, publishIfLast_more hstored⟩
    · rw [hmsg, ← disarmed_newTmcMsg p s]
      rfl
    · rw [hopt, ← disarmed_optionalTmc p s, ← disarmed_newTmcMsg p s, ← windowWord_tmcWindowOf]
      exact (getElem_set_fin _ ⟨_, htakes.1⟩ k _).trans (by simp only [Fin.ext_iff])
  · rw [hafter, nextMulti_reject (hfits.not.mp hrejects)]
    exact hbefore
  · rw [hafter]
    exact hbefore.append ⟨nextMulti_untouched _ _ _ _, nextMulti_bits _ _ _ _⟩ (by decide) (by decide)

end Sys2Proof.Machine
end

section
/-! A 10A group (R300) as a chain of states: the common extractors, the A/B toggle, the staged half, and publication, each over what
the stage before it left. -/

namespace Sys2Proof.Machine

/-- After the toggle (R301). -/
def State.ptynToggled (p : GroupBlocks) (s : State) : State := togglePtyn (p.b.getLsbD 4) (s.extracted p)

/-- After the half is staged (R302). -/
def State.ptynHalved (p : GroupBlocks) (s : State) : State := stagePtyn (ptynHalfOf p) (ptynCharsOf p) (s.ptynToggled p)

section
variable {i : Instr} {p : GroupBlocks} (he : encodeGroup i = some p) (hg : gidOf p = 10) (hver : verBOf p = false) (s : State)
include he hg hver

/-- What the 10A row leaves. -/
theorem afterGroup_type10A : afterGroup i p s = publishPtyn (s.ptynHalved p) := by
  cases i with
  | g10a =>
    cases he
    simp (disch := decide) only [State.ptynHalved, State.ptynToggled, ptynHalfOf, ptynCharsOf, blockB_low_bit, lowG10_ab, lowG10_seg,
      bytePair_msb, bytePair_lsb]
    rfl
  | g10b =>
    cases he
    rw [verBOf, blockB_ver] at hver
    cases hver
  | _ => cases he <;> simp [gidOf, blockB_gid] at hg

end

/-! ### The toggle (R301) -/

/-- The toggle in terms of the state before the group, whose name the extractors leave alone. -/
theorem State.ptynToggled_eq (p : GroupBlocks) (s : State) :
    s.ptynToggled p = { s.extracted p with
      ptynAbFlag := p.b.getLsbD 4
      ptyn := ptynPublic p s
      newPtyn := if ptynToggles p s then Vector.replicate _ (Vector.replicate _ 0) else s.newPtyn
      newPtynValid := if ptynToggles p s then Vector.replicate _ false else s.newPtynValid
      validFields := if ptynToggles p s then (s.extracted p).validFields &&& ~~~Field.ptyn.mask else (s.extracted p).validFields
      updMask := if ptynToggles p s then (s.extracted p).updMask ||| Field.ptyn.mask else (s.extracted p).updMask } := by
  have hiff : p.b.getLsbD 4 = s.ptynAbFlag ↔ ¬ptynToggles p s = true := by simp [ptynToggles]
  rw [State.ptynToggled, togglePtyn_eq]
  simp only [State.extracted_eq, hiff, ite_not, ptynPublic]

theorem ptynToggled_newPtyn (p : GroupBlocks) (s : State) (h : Fin 2) : (s.ptynToggled p).newPtyn[h] = ptynStaged p s h := by
  rw [State.ptynToggled_eq, ptynStaged]
  dsimp only
  split
  · exact Vector.getElem_replicate _
  · rfl

theorem ptynToggled_newPtynValid (p : GroupBlocks) (s : State) (h : Fin 2) :
    (s.ptynToggled p).newPtynValid[h] = (s.newPtynValid[h] && !ptynToggles p s) := by
  rw [State.ptynToggled_eq]
  dsimp only
  cases ptynToggles p s with
  | true => simp
  | false => simp

theorem ptynToggled_isValid (p : GroupBlocks) (s : State) :
    (s.ptynToggled p).isValid .ptyn = (s.isValid .ptyn && !ptynToggles p s) := by
  have hold : (s.extracted p).validFields.getLsbD Field.ptyn.pos = s.isValid .ptyn := ((extracted_frame p s).quiet (by decide)).1
  rw [State.ptynToggled_eq, State.isValid, ← hold]
  dsimp only
  cases ptynToggles p s with
  | true => rw [if_pos rfl, getLsbD_clear_mask, decide_eq_true rfl]
  | false => simp

theorem ptynToggled_raised (p : GroupBlocks) (s : State) : (s.ptynToggled p).raised .ptyn = ptynToggles p s := by
  have hold : (s.extracted p).updMask.getLsbD Field.ptyn.pos = false := extracted_raised_other p s (by decide)
  rw [State.ptynToggled_eq, State.raised]
  dsimp only
  cases ptynToggles p s with
  | true => rw [if_pos rfl, getLsbD_or_mask, decide_eq_true rfl, Bool.or_true]
  | false => exact hold

/-! ### The half (R302) -/

/-- Either way the half holds the characters: agreeing ones stand there already. -/
theorem stagePtyn_newPtyn (h : Fin 2) (v : Chars 4) (s : State) (k : Fin 2) :
    (stagePtyn h v s).newPtyn[k] = if k = h then v else s.newPtyn[k] := by
  by_cases hv : v = s.newPtyn[h]
  · rw [stagePtyn_agree hv]
    split
    · rename_i hk; rw [hk, hv]
    · rfl
  · rw [stagePtyn_differ hv]
    exact getElem_set_fin _ h k v

theorem stagePtyn_newPtynValid (h : Fin 2) (v : Chars 4) (s : State) (k : Fin 2) :
    (stagePtyn h v s).newPtynValid[k] = if k = h then decide (v = s.newPtyn[h]) else s.newPtynValid[k] := by
  by_cases hv : v = s.newPtyn[h]
  · rw [stagePtyn_agree hv, decide_eq_true hv]
    exact getElem_set_fin _ h k true
  · rw [stagePtyn_differ hv, decide_eq_false hv]
    exact getElem_set_fin _ h k false

theorem ptynHalved_newPtyn (p : GroupBlocks) (s : State) (h : Fin 2) :
    (s.ptynHalved p).newPtyn[h] = if h = ptynHalfOf p then ptynCharsOf p else ptynStaged p s h := by
  rw [State.ptynHalved, stagePtyn_newPtyn, ptynToggled_newPtyn]

theorem ptynHalved_newPtynValid (p : GroupBlocks) (s : State) (h : Fin 2) :
    (s.ptynHalved p).newPtynValid[h] =
      if h = ptynHalfOf p then decide (ptynCharsOf p = ptynStaged p s h) else s.newPtynValid[h] && !ptynToggles p s := by
  rw [State.ptynHalved, stagePtyn_newPtynValid, ptynToggled_newPtyn, ptynToggled_newPtynValid]
  split
  · rename_i hk; rw [hk]
  · rfl

theorem ptynHalved_ptyn (p : GroupBlocks) (s : State) : (s.ptynHalved p).ptyn = ptynPublic p s := by
  have hname : (s.ptynToggled p).ptyn = (s.ptynHalved p).ptyn := stagePtyn_untouched _ _ _ .ptyn (by decide)
  rw [← hname, State.ptynToggled_eq]

theorem ptynHalved_isValid (p : GroupBlocks) (s : State) :
    (s.ptynHalved p).isValid .ptyn = (s.isValid .ptyn && !ptynToggles p s) := by
  rw [State.ptynHalved, (stagePtyn_bits _ _ _).isValid (by decide), ptynToggled_isValid]

theorem ptynHalved_raised (p : GroupBlocks) (s : State) : (s.ptynHalved p).raised .ptyn = ptynToggles p s := by
  rw [State.ptynHalved, (stagePtyn_bits _ _ _).raised (by decide), ptynToggled_raised]

theorem ptynHalved_ptynAbFlag (p : GroupBlocks) (s : State) : (s.ptynHalved p).ptynAbFlag = p.b.getLsbD 4 := by
  have hflag : (s.ptynToggled p).ptynAbFlag = (s.ptynHalved p).ptynAbFlag := stagePtyn_untouched _ _ _ .ptynAbFlag (by decide)
  rw [← hflag, State.ptynToggled_eq]

theorem ptynHalved_frame (p : GroupBlocks) (s : State) :
    GroupFrame [.ptynAbFlag, .ptyn, .newPtyn, .newPtynValid] [.ptyn] s (s.ptynHalved p) :=
  (extracted_frame p s).append
    (.trans ⟨togglePtyn_untouched _ _, togglePtyn_bits _ _⟩ ⟨stagePtyn_untouched _ _ _, stagePtyn_bits _ _ _⟩) (by decide) (by decide)

/-! ### Publication (R303) -/

/-- A published name is reported if it is another one or was reported before. -/
theorem publishPtyn_complete {s : State} (h : s.newPtynValid[0] = true ∧ s.newPtynValid[1] = true) :
    (publishPtyn s).ptyn = s.newPtyn[0] ++ s.newPtyn[1]
      ∧ Published .ptyn (s.raised .ptyn || (publishPtyn s).ptyn != s.ptyn) (publishPtyn s) := by
  have hname : (publishPtyn s).ptyn = s.newPtyn[0] ++ s.newPtyn[1] := by rw [publishPtyn_eq]; exact if_pos h
  have hvalid : (publishPtyn s).validFields = s.validFields ||| Field.ptyn.mask := by rw [publishPtyn_eq]; exact if_pos h
  refine ⟨hname, ?_, ?_⟩
  · rw [State.isValid, hvalid, getLsbD_or_mask, decide_eq_true rfl, Bool.or_true]
  · rw [hname, publishPtyn_eq]
    unfold State.raised
    dsimp only
    by_cases hsame : (s.newPtyn[0] ++ s.newPtyn[1] : Chars 8) = s.ptyn
    · rw [if_neg fun hc => hc.2 hsame, bne_eq_false_iff_eq.mpr hsame, Bool.or_false]
    · rw [if_pos ⟨h, hsame⟩, getLsbD_or_mask, decide_eq_true rfl, bne_iff_ne.mpr hsame]

theorem publishPtyn_incomplete {s : State} (h : ¬(s.newPtynValid[0] = true ∧ s.newPtynValid[1] = true)) :
    publishPtyn s = s := if_neg h

/-- Settles O48: the toggle and the half are as the chain leaves them, and publication asks for both flags. -/
theorem ptynHalvesAreStagedAndPublished : Obligations.PtynHalvesAreStagedAndPublished := by
  unfold Obligations.PtynHalvesAreStagedAndPublished
  intro i p s he hg hver hc
  have hpublish := publishPtyn_untouched (s.ptynHalved p)
  have hflag : (s.ptynHalved p).ptynAbFlag = (publishPtyn (s.ptynHalved p)).ptynAbFlag := hpublish .ptynAbFlag (by decide)
  have hhalves : (s.ptynHalved p).newPtyn = (publishPtyn (s.ptynHalved p)).newPtyn := hpublish .newPtyn (by decide)
  have hvalid : (s.ptynHalved p).newPtynValid = (publishPtyn (s.ptynHalved p)).newPtynValid := hpublish .newPtynValid (by decide)
  refine ⟨afterGroup i p s, exec_group_next he hc, ?_⟩
  rw [afterGroup_type10A he hg hver, ← hflag, ← hhalves, ← hvalid]
  refine ⟨ptynHalved_ptynAbFlag p s, fun h => ⟨ptynHalved_newPtyn p s h, ptynHalved_newPtynValid p s h⟩, fun hboth => ?_,
    fun hnotBoth => ?_, (ptynHalved_frame p s).append ⟨hpublish, publishPtyn_bits _⟩ (by decide) (by decide)⟩
  · rw [← ptynHalved_raised, ← ptynHalved_ptyn]
    exact publishPtyn_complete hboth
  · rw [publishPtyn_incomplete hnotBoth]
    exact ⟨ptynHalved_ptyn p s, ptynHalved_isValid p s, ptynHalved_raised p s⟩

end Sys2Proof.Machine
end

section
/-! The optional fields of a TMC message (R270, R271): reading at a cursor of the packed stream is taking from the list of the bits
that are left, so the loop appends the records of that list. -/

namespace Sys2Proof.Machine

/-! ### Bits of a stream as a list -/

/-- `n` bits of the stream from a cursor on, first bit first (R270). -/
def bitsAt (s : BitVec 112) (pos n : Nat) : List Bool := (List.range' pos n).map fun k => s.getLsbD (111 - k)

theorem bitsAt_length (s : BitVec 112) (pos n : Nat) : (bitsAt s pos n).length = n := by
  rw [bitsAt, List.length_map, List.length_range']

theorem bitsAt_append (s : BitVec 112) (pos m n : Nat) : bitsAt s pos m ++ bitsAt s (pos + m) n = bitsAt s pos (m + n) := by
  rw [bitsAt, bitsAt, bitsAt, ← List.map_append, ← List.range'_append_1]

theorem take_bitsAt (s : BitVec 112) (pos : Nat) {m n : Nat} (h : m ≤ n) : (bitsAt s pos n).take m = bitsAt s pos m := by
  obtain ⟨k, rfl⟩ := Nat.exists_eq_add_of_le h
  rw [← bitsAt_append, List.take_left' (bitsAt_length s pos m)]

theorem drop_bitsAt (s : BitVec 112) (pos m n : Nat) : (bitsAt s pos (m + n)).drop m = bitsAt s (pos + m) n := by
  rw [← bitsAt_append, List.drop_left' (bitsAt_length s pos m)]

theorem bitsValue_concat (bs : List Bool) (b : Bool) : bitsValue (bs ++ [b]) = 2 * bitsValue bs + b.toNat := by
  rw [bitsValue, List.foldl_concat]
  rfl

/-- One more digit at the low end of a part of a number. -/
theorem shiftRight_mod_pow_succ (x d k : Nat) : x >>> d % 2 ^ (k + 1) = 2 * (x >>> (d + 1) % 2 ^ k) + (x.testBit d).toNat := by
  rw [Nat.toNat_testBit, ← Nat.shiftRight_eq_div_pow, Nat.shiftRight_succ, Nat.pow_succ', Nat.mod_mul, Nat.add_comm]

/-- Reading at a cursor gives the number the bits there write (R270). -/
theorem bitsValue_bitsAt (s : BitVec 112) (pos : Nat) {k : Nat} (h : pos + k ≤ 112) :
    bitsValue (bitsAt s pos k) = (readStream s pos k).toNat := by
  induction k with
  | zero => simp [bitsAt, bitsValue, readStream]
  | succ k ih =>
    have hcursor : 112 - (pos + k) = 111 - (pos + k) + 1 := by omega
    have hlast : 112 - (pos + (k + 1)) = 111 - (pos + k) := by omega
    have hbit : bitsAt s (pos + k) 1 = [s.toNat.testBit (111 - (pos + k))] := rfl
    rw [← bitsAt_append, hbit, bitsValue_concat, ih (by omega), readStream, readStream, BitVec.extractLsb'_toNat,
      BitVec.extractLsb'_toNat, hcursor, hlast, shiftRight_mod_pow_succ]

/-! ### The windows of a stream -/

theorem getLsbD_tmcStream (w : Vector (BitVec 32) 4) (i : Fin 4) {k : Nat} (hk : k < 28) :
    (tmcStream w).getLsbD (111 - (28 * i.val + k)) = w[i].getLsbD (31 - k) := by
  have hi := i.isLt
  simp only [tmcStream, BitVec.getLsbD_append, BitVec.getLsbD_extractLsb']
  obtain ⟨i, hi⟩ := i
  interval_cases i <;> grind

theorem windowBits_eq (w : Vector (BitVec 32) 4) (i : Fin 4) : windowBits w[i] = bitsAt (tmcStream w) (28 * i.val) 28 := by
  rw [windowBits, bitsAt, List.range'_eq_map_range, List.map_map]
  refine List.map_congr_left fun k hk => ?_
  exact (getLsbD_tmcStream w i (List.mem_range.mp hk)).symm

/-- The stream of the first windows is what a cursor at its start has before it. -/
theorem streamBits_eq (w : Vector (BitVec 32) 4) {n : Nat} (h : n ≤ 4) : streamBits n w = bitsAt (tmcStream w) 0 (28 * n) := by
  induction n with
  | zero => rfl
  | succ n ih =>
    have hget : w.toList[n]'(by simpa using h) = w[(⟨n, h⟩ : Fin 4)] := by simp
    rw [streamBits, List.take_succ_eq_append_getElem (by simpa using h), List.flatMap_append, ← streamBits, ih (by omega), hget,
      List.flatMap_singleton, windowBits_eq, Nat.mul_succ, ← bitsAt_append, Nat.zero_add]

/-! ### One record (R271) -/

theorem tmcLengths_getD (label : BitVec 4) : tmcLengths.getD label.toNat 0 = labelLength label := by
  revert label; decide

/-- The records appended for a label (R271). -/
def recordOf (label : BitVec 4) (data : Word) : List TmcField := if label = 15 then [] else [⟨label, data⟩]

section
variable (s : BitVec 112) (pos fuel : Nat)

theorem tmcRecords_no_label {n : Nat} (h : n < 4) : tmcRecords (fuel + 1) (bitsAt s pos n) = [] := by
  rw [tmcRecords, if_pos (.inl (by rwa [bitsAt_length]))]

theorem tmcRecords_bitsAt {m : Nat} (h : pos + (4 + m) ≤ 112) :
    tmcRecords (fuel + 1) (bitsAt s pos (4 + m)) =
      if m < labelLength (readStream s pos 4) then []
      else recordOf (readStream s pos 4) ((readStream s (pos + 4) (labelLength (readStream s pos 4))).setWidth 16)
        ++ tmcRecords fuel (bitsAt s (pos + 4 + labelLength (readStream s pos 4)) (m - labelLength (readStream s pos 4))) := by
  have hlabel : bitsValue ((bitsAt s pos (4 + m)).take 4) = (readStream s pos 4).toNat := by
    rw [take_bitsAt s pos (by omega), bitsValue_bitsAt s pos (by omega)]
  have hrest : (bitsAt s pos (4 + m)).drop 4 = bitsAt s (pos + 4) m := drop_bitsAt s pos 4 m
  rw [tmcRecords, hlabel, hrest, tmcLengths_getD, bitsAt_length, bitsAt_length]
  generalize readStream s pos 4 = label
  by_cases hshort : m < labelLength label
  · rw [if_pos (.inr hshort), if_pos hshort]
  · obtain ⟨k, rfl⟩ := Nat.exists_eq_add_of_le (Nat.not_lt.mp hshort)
    have hdata : bitsValue ((bitsAt s (pos + 4) (labelLength label + k)).take (labelLength label))
        = (readStream s (pos + 4) (labelLength label)).toNat := by
      rw [take_bitsAt s _ (by omega), bitsValue_bitsAt s _ (by omega)]
    have hskip : label.toNat = 15 ↔ label = 15 := BitVec.toNat_inj (y := 15)
    rw [if_neg (by omega), if_neg hshort, hdata, drop_bitsAt, Nat.add_sub_cancel_left, recordOf, BitVec.ofNat_toNat,
      BitVec.ofNat_toNat, BitVec.setWidth_eq]
    simp only [hskip]

end

/-! ### The loop (R270) -/

/-- The optional fields are those records, and zero beyond them (R272). -/
structure Additional.Lists (a : Additional) (records : List TmcField) : Prop where
  size : a.size = records.length
  bound : records.length ≤ 28
  fields : ∀ k : Fin 28, a.fields[k] = records.getD k.val ⟨0, 0⟩

theorem Additional.zero_lists : Additional.zero.Lists [] :=
  ⟨rfl, Nat.zero_le _, fun _ => Vector.getElem_replicate _⟩

theorem recordOf_length_le (label : BitVec 4) (data : Word) : (recordOf label data).length ≤ 1 := by
  unfold recordOf
  split
  · exact Nat.zero_le 1
  · exact Nat.le_refl 1

theorem getD_concat {α : Type} (l : List α) (x d : α) (k : Nat) : (l ++ [x]).getD k d = if k = l.length then x else l.getD k d := by
  grind

theorem Additional.Lists.appendField {a : Additional} {records : List TmcField} (h : a.Lists records) (hroom : records.length < 28)
    (label : BitVec 4) (data : Word) : (appendField a label data).Lists (records ++ recordOf label data) := by
  unfold Machine.appendField recordOf
  split
  · rw [List.append_nil]
    exact h
  · have hlt : a.size < 28 := h.size ▸ hroom
    rw [dif_pos hlt]
    refine ⟨by rw [List.length_append, ← h.size]; rfl, by rw [List.length_append]; exact hroom, fun k => ?_⟩
    have hset : (a.fields.set a.size ⟨label, data⟩ hlt)[k] = if k.val = a.size then ⟨label, data⟩ else a.fields[k] := by
      simp only [Fin.getElem_fin, Vector.getElem_set, eq_comm]
    rw [hset, h.fields k, h.size, getD_concat]

/-- With room for a record a round, the loop appends the records of the bits before the cursor. -/
theorem unpackLoop_lists (s : BitVec 112) {total : Nat} (ht : total ≤ 112) (fuel : Nat) {pos : Nat} (hpos : pos ≤ total)
    {out : Additional} {records : List TmcField} (h : out.Lists records) (hroom : records.length + fuel ≤ 28) :
    (unpackLoop s total fuel pos out).Lists (records ++ tmcRecords fuel (bitsAt s pos (total - pos))) := by
  induction fuel generalizing pos out records with
  | zero => simpa [unpackLoop, tmcRecords] using h
  | succ fuel ih =>
    rw [unpackLoop]
    by_cases hlabel : total < pos + 4
    · rw [if_pos hlabel, tmcRecords_no_label s pos fuel (by omega), List.append_nil]
      exact h
    · obtain ⟨m, rfl⟩ := Nat.exists_eq_add_of_le (Nat.not_lt.mp hlabel)
      have hleft : pos + 4 + m - pos = 4 + m := by omega
      rw [if_neg hlabel, hleft, tmcRecords_bitsAt s pos fuel (by omega)]
      dsimp only
      generalize readStream s pos 4 = label
      by_cases hshort : m < labelLength label
      · rw [if_pos hshort, if_pos (by omega), List.append_nil]
        exact h
      · have hrecord := recordOf_length_le label ((readStream s (pos + 4) (labelLength label)).setWidth 16)
        have hnext := ih (by omega) (h.appendField (by omega) label ((readStream s (pos + 4) (labelLength label)).setWidth 16))
          (pos := pos + 4 + labelLength label) (by rw [List.length_append]; omega)
        have hleft : m - labelLength label = pos + 4 + m - (pos + 4 + labelLength label) := by omega
        rw [if_neg hshort, if_neg (by omega), ← List.append_assoc, hleft]
        exact hnext

/-- Settles O47: the loop starts with no record, and its stream is that of the windows. -/
theorem optionalFieldsAreTheRecordsOfTheStream : Obligations.OptionalFieldsAreTheRecordsOfTheStream := by
  unfold Obligations.OptionalFieldsAreTheRecordsOfTheStream
  intro n w _ hn records
  have hloop := unpackLoop_lists (tmcStream w) (total := 28 * n) (by omega) 28 (Nat.zero_le _) Additional.zero_lists (by decide)
  rw [List.nil_append, Nat.sub_zero, ← streamBits_eq w hn] at hloop
  exact ⟨hloop.size, hloop.bound, hloop.fields⟩

end Sys2Proof.Machine
end
